-- ==== Sys2Proof/Word.lean ====
section
/-! DEFINITION. The words of the RSCP frame engine: a byte (R8), the 16-bit checksum (R6) and the 32-bit host registers (R61).
No value in the block is signed (R8). -/

namespace Sys2Proof

/-- An unsigned 8-bit value (R8). -/
abbrev Byte := BitVec 8

/-- A 16-bit checksum value (R6, `CRC_LEN = 2`). -/
abbrev Half := BitVec 16

/-- A 32-bit host register or tick count (R21, R36). -/
abbrev Word := BitVec 32

end Sys2Proof
end

