-- ==== Sys2Proof/Config.lean ====
section
/-! DEFINITION. What an implementation fixes (R6: constants and named parameters) and the free values of the model (R10, R41, R45).
An `opaque` constant has no body: nothing can be proved about its value, so a claim holds whatever it is. -/

namespace Sys2Proof

/-- `PAYLOAD_CAP` (R6): the most payload bytes of a frame. -/
abbrev payloadCap : Nat := 26
/-- `TX_CAP` (R6): the capacity of the transmit buffer. -/
abbrev txCap : Nat := 64
/-- `HEADER_LEN` (R6): the bytes of `length` and `command`. -/
abbrev headerLen : Nat := 2
/-- `CRC_LEN` (R6): the bytes of the checksum. -/
abbrev crcLen : Nat := 2
/-- `PREAMBLE_LEN` (R6). -/
abbrev preambleLen : Nat := 1
/-- `OVERHEAD` (R6): the bytes of an encoded frame that are not payload. -/
abbrev overhead : Nat := preambleLen + headerLen + crcLen
/-- `MAX_LENGTH` (R6): the greatest `length` byte the encoder writes. -/
abbrev maxLength : Nat := headerLen + payloadCap

/-- `P_ROLE` (R6, R97, R240): the build-time role. -/
inductive Role where
  | master
  | slave
  deriving DecidableEq, Repr, Inhabited

/-- `P_CRC` (R6, R140, R244) as plain data: WHICH total function from byte strings to 16-bit values the block is built with.
`provider n` is one of a family of open functions of which nothing is known; `ccittFalse` is the spec's own test instance
(93_implementation_defined.md G1), there so that the spec's vectors can be evaluated. No claim about the hardware may rest on it. -/
inductive CrcAlg where
  | provider (n : Nat)
  | ccittFalse
  deriving DecidableEq, Repr, Inhabited

/-- `P_CLASS_GET_SHUTTER_ACTION` (R213): `READ(P_LEN_GET_SHUTTER_ACTION)` or `UNSUPPORTED`. -/
inductive ActionClass where
  | read
  | unsupported
  deriving DecidableEq, Repr, Inhabited

/-- A payload length `0..26` (R6, R210: `m <= PAYLOAD_CAP`). -/
abbrev PayloadLen := Fin 27

/-- An entry of `P_CMD_TABLE` (R6, R210). -/
inductive CmdClass where
  | read (m : PayloadLen)
  | write (m : PayloadLen)
  | unsupported
  deriving DecidableEq, Repr, Inhabited

/-- The named parameters of R6, fixed for the life of the block (R20). `P_CMD_IDENT` and `P_CMD_SET_RELAY` are constants,
not fields; `P_CMD_TABLE` is derived from these fields (R210 to R220). -/
structure Params where
  /-- `P_ROLE`. -/
  role : Role
  /-- `P_PREAMBLE`. -/
  preamble : Byte
  /-- `P_CRC`. -/
  crc : CrcAlg
  /-- `P_STATUS_OK`: the block never reads it (R199). -/
  statusOk : Byte
  /-- `P_STATUS_NOT_SUPPORTED`. -/
  statusNotSupported : Byte
  /-- `P_RELAY_ON`: the block never reads it (R216). -/
  relayOn : Byte
  /-- `P_CMD_SET_SHUTTER_ACTION`. -/
  cmdSetShutterAction : Byte
  /-- `P_CMD_GET_SHUTTER_ACTION`. -/
  cmdGetShutterAction : Byte
  /-- `P_CMD_SET_SHUTTER_POSITION`. -/
  cmdSetShutterPosition : Byte
  /-- `P_CMD_GET_SHUTTER_POSITION`. -/
  cmdGetShutterPosition : Byte
  /-- `P_CMD_GET_RELAY`. -/
  cmdGetRelay : Byte
  /-- `P_CMD_SET_BUZZER`. -/
  cmdSetBuzzer : Byte
  /-- `P_CMD_GET_BUTTON`. -/
  cmdGetButton : Byte
  /-- `P_LEN_SET_SHUTTER_ACTION`. -/
  lenSetShutterAction : PayloadLen
  /-- `P_LEN_GET_SHUTTER_ACTION`. -/
  lenGetShutterAction : PayloadLen
  /-- `P_LEN_SET_SHUTTER_POSITION`. -/
  lenSetShutterPosition : PayloadLen
  /-- `P_LEN_GET_SHUTTER_POSITION`. -/
  lenGetShutterPosition : PayloadLen
  /-- `P_LEN_GET_RELAY`. -/
  lenGetRelay : PayloadLen
  /-- `P_LEN_SET_BUZZER`. -/
  lenSetBuzzer : PayloadLen
  /-- `P_LEN_GET_BUTTON`. -/
  lenGetButton : PayloadLen
  /-- `P_CLASS_GET_SHUTTER_ACTION`. -/
  classGetShutterAction : ActionClass
  /-- `P_RESERVE_OVERHEAD`, `0..229` (R172). -/
  reserveOverhead : Fin 230
  deriving DecidableEq, Repr, Inhabited

/-- `P_CMD_IDENT = 0x03` (R6, R211). -/
abbrev cmdIdent : Byte := 0x03#8
/-- `P_CMD_SET_RELAY = 0x07` (R6, R216). -/
abbrev cmdSetRelay : Byte := 0x07#8

/-- The codes of the nine named commands, in the catalog's order (R222). -/
def Params.codes (p : Params) : List Byte :=
  [cmdIdent, p.cmdSetShutterAction, p.cmdGetShutterAction, p.cmdSetShutterPosition, p.cmdGetShutterPosition,
   cmdSetRelay, p.cmdGetRelay, p.cmdSetBuzzer, p.cmdGetButton]

/-- The hard constraint of R6 on the parameters that their types do not carry: the nine codes are pairwise distinct (R210). -/
abbrev Params.Ok (p : Params) : Prop := p.codes.Nodup

/-- R7(a): `P_PREAMBLE` is not in `2..28`. A model may take parameters that violate it, so only the statements that need it assume it. -/
abbrev Params.PreambleFree (p : Params) : Prop := ¬ (2 ≤ p.preamble.toNat ∧ p.preamble.toNat ≤ maxLength)

/-- R7(c): `P_STATUS_OK != P_STATUS_NOT_SUPPORTED`. -/
abbrev Params.StatusDistinct (p : Params) : Prop := p.statusOk ≠ p.statusNotSupported

namespace Config

/-- The open parameters of the block at hand (R6): nothing is known of them. -/
opaque openParams : Params

/-- Any assignment that meets `Params.Ok`, used only to keep the limit R6 sets on the codes (see `build`). -/
def witnessParams : Params :=
  { role := .master, preamble := 0xAA#8, crc := .provider 0, statusOk := 0x00#8, statusNotSupported := 0xFE#8,
    relayOn := 0x01#8, cmdSetShutterAction := 0x81#8, cmdGetShutterAction := 0x82#8, cmdSetShutterPosition := 0x83#8,
    cmdGetShutterPosition := 0x84#8, cmdGetRelay := 0x85#8, cmdSetBuzzer := 0x86#8, cmdGetButton := 0x87#8,
    lenSetShutterAction := 1, lenGetShutterAction := 1, lenSetShutterPosition := 2, lenGetShutterPosition := 2,
    lenGetRelay := 1, lenSetBuzzer := 1, lenGetButton := 1, classGetShutterAction := .read, reserveOverhead := 0 }

/-- The parameters the block is built with: the open ones, kept to the one limit R6 sets (pairwise distinct codes).
Every assignment that meets the limit is admitted, and nothing tells which one it is. -/
def build : Params := if openParams.Ok then openParams else witnessParams

/-- The open checksum providers (R140, R244): total functions of which nothing is known. -/
opaque crcProvider : Nat → List Byte → Half

/-- `draw()` (R10): the byte that the `i`-th UNSPEC element of the `k`-th reading reads as. -/
opaque draw : Nat → Nat → Byte

/-- The transport's free answer to a `POLL` (R45, R243). -/
opaque freePoll : Nat → Option Byte

/-- The transport's free answer to a `WRITE` or a `RESERVE` (R45, R243): `true` is `ok`. -/
opaque freeAck : Nat → Bool

/-- `TICKS` after the `k`-th reset (R41: UNSPEC). -/
opaque freeTicks : Nat → Word

/-- `IDX` after the `k`-th reset (R41: UNSPEC; R37: `0..26`). -/
opaque freeIdx : Nat → PayloadLen

/-- `OP` after the `k`-th reset (R41: UNSPEC). -/
opaque freeOp : Nat → BitVec 3

/-- `REQ_CMD` after the `k`-th reset (R41: UNSPEC). -/
opaque freeReqCmd : Nat → Byte

/-- `REQ_LEN` after the `k`-th reset (R41: UNSPEC). -/
opaque freeReqLen : Nat → Byte

end Config

end Sys2Proof
end

