-- ==== Sys2Proof/Syntax.lean ====
section
/-! DEFINITION. The instructions of the block: one constructor per row of the opcode table. Eight are host operations started
by a `CTRL` write (R90 to R98), ten are on-wire commands that a slave's HANDLE dispatches (R210 to R220). -/

namespace Sys2Proof

/-- One constructor per row of spec/opcode_table.json. A host operation carries `CTRL.CMD` and `CTRL.LEN`, which every start latches
(R38, R90) whether or not the operation uses them (R99). A wire command's code is a parameter of the block (R6), so it carries none;
`unsupported` carries the code, which is any code that is not one of the nine (R220). -/
inductive Instr where
  /-- `CTRL.OP = 0` (R98). -/
  | illegalOp0 (cmd len : Byte)
  /-- DECODE, `CTRL.OP = 1` (R124). -/
  | decode (cmd len : Byte)
  /-- VALIDATE, `CTRL.OP = 2` (R144). -/
  | validate (cmd len : Byte)
  /-- ENCODE, `CTRL.OP = 3` (R156). -/
  | encode (cmd len : Byte)
  /-- REQUEST_DATA, `CTRL.OP = 4` (R171). -/
  | requestData (cmd len : Byte)
  /-- SEND_ACTION, `CTRL.OP = 5` (R178). -/
  | sendAction (cmd len : Byte)
  /-- HANDLE, `CTRL.OP = 6` (R191). -/
  | handle (cmd len : Byte)
  /-- `CTRL.OP = 7` (R98). -/
  | illegalOp7 (cmd len : Byte)
  /-- Identification query (R211). -/
  | ident
  /-- Set shutter action (R212). -/
  | setShutterAction
  /-- Get shutter action (R213). -/
  | getShutterAction
  /-- Set shutter position (R214). -/
  | setShutterPosition
  /-- Get shutter position (R215). -/
  | getShutterPosition
  /-- Set relay switch (R216). -/
  | setRelay
  /-- Get relay switch (R217). -/
  | getRelay
  /-- Set buzzer action (R218). -/
  | setBuzzer
  /-- Get switch-button state (R219). -/
  | getButton
  /-- Any other command code (R220). -/
  | unsupported (command : Byte)
  deriving DecidableEq, Repr

/-- The two encoded forms of the opcode table: a 32-bit `CTRL` word (R90) and a frame's command byte (R82). -/
inductive Encoded where
  | ctrl (w : Word)
  | wire (b : Byte)
  deriving DecidableEq, Repr

end Sys2Proof
end

