-- ==== Sys2Proof/WellFormed.lean ====
section
/-! DEFINITION. Which instructions are well formed for a block built with given parameters. Every field of a host operation admits
every value (R90, R99, R157); the one check is on the code of an unsupported command (R220). -/

namespace Sys2Proof

/-- R220: the UNSUPPORTED row stands for "every code other than the nine of rules R211 to R219". -/
def isUnassigned (p : Params) (c : Byte) : Bool := !(p.codes.contains c)

/-- The instructions a block built with `p` can be given. -/
def wellFormed (p : Params) : Instr → Bool
  | .illegalOp0 _ _ => true
  | .decode _ _ => true
  | .validate _ _ => true
  | .encode _ _ => true
  | .requestData _ _ => true
  | .sendAction _ _ => true
  | .handle _ _ => true
  | .illegalOp7 _ _ => true
  | .ident => true
  | .setShutterAction => true
  | .getShutterAction => true
  | .setShutterPosition => true
  | .getShutterPosition => true
  | .setRelay => true
  | .getRelay => true
  | .setBuzzer => true
  | .getButton => true
  | .unsupported c => isUnassigned p c

end Sys2Proof
end

