-- ==== Sys2Proof/Decode.lean ====
section
/-! DEFINITION. Decoding a `CTRL` word (R90 to R99) and a command byte (R210 to R220), and the encoder written from the same tables.
Both decoders are total: every `CTRL` word and every command byte has a meaning (R98, R220), so a word is rejected only for its width. -/

namespace Sys2Proof

/-- `CTRL[2:0]`, the field `OP` (R90). -/
def ctrlOp (w : Word) : BitVec 3 := w.extractLsb' 0 3
/-- `CTRL[15:8]`, the field `CMD` (R90). -/
def ctrlCmd (w : Word) : Byte := w.extractLsb' 8 8
/-- `CTRL[23:16]`, the field `LEN` (R90). -/
def ctrlLen (w : Word) : Byte := w.extractLsb' 16 8

/-- The operation code map of R91 and R98. `CTRL[7:3]` and `CTRL[31:24]` are not looked at (R99). -/
def decodeCtrl (w : Word) : Instr :=
  if ctrlOp w = 1#3 then .decode (ctrlCmd w) (ctrlLen w)
  else if ctrlOp w = 2#3 then .validate (ctrlCmd w) (ctrlLen w)
  else if ctrlOp w = 3#3 then .encode (ctrlCmd w) (ctrlLen w)
  else if ctrlOp w = 4#3 then .requestData (ctrlCmd w) (ctrlLen w)
  else if ctrlOp w = 5#3 then .sendAction (ctrlCmd w) (ctrlLen w)
  else if ctrlOp w = 6#3 then .handle (ctrlCmd w) (ctrlLen w)
  else if ctrlOp w = 7#3 then .illegalOp7 (ctrlCmd w) (ctrlLen w)
  else .illegalOp0 (ctrlCmd w) (ctrlLen w)

/-- The command catalog read by its codes (R211 to R220). -/
def decodeWire (p : Params) (b : Byte) : Instr :=
  if b = cmdIdent then .ident
  else if b = cmdSetRelay then .setRelay
  else if b = p.cmdSetShutterAction then .setShutterAction
  else if b = p.cmdGetShutterAction then .getShutterAction
  else if b = p.cmdSetShutterPosition then .setShutterPosition
  else if b = p.cmdGetShutterPosition then .getShutterPosition
  else if b = p.cmdGetRelay then .getRelay
  else if b = p.cmdSetBuzzer then .setBuzzer
  else if b = p.cmdGetButton then .getButton
  else .unsupported b

/-- The instruction an encoded form stands for. -/
def decode (p : Params) : Encoded → Instr
  | .ctrl w => decodeCtrl w
  | .wire b => decodeWire p b

/-- The canonical `CTRL` word `OP | CMD << 8 | LEN << 16` of R92 to R96 and R100: reserved bits 0. -/
def ctrlWord (op : BitVec 3) (cmd len : Byte) : Word := op.setWidth 32 ||| (cmd.setWidth 32 <<< 8) ||| (len.setWidth 32 <<< 16)

/-- The encoded form of an instruction, from the tables of R91, R98 and R222. -/
def encode (p : Params) : Instr → Encoded
  | .illegalOp0 cmd len => .ctrl (ctrlWord 0#3 cmd len)
  | .decode cmd len => .ctrl (ctrlWord 1#3 cmd len)
  | .validate cmd len => .ctrl (ctrlWord 2#3 cmd len)
  | .encode cmd len => .ctrl (ctrlWord 3#3 cmd len)
  | .requestData cmd len => .ctrl (ctrlWord 4#3 cmd len)
  | .sendAction cmd len => .ctrl (ctrlWord 5#3 cmd len)
  | .handle cmd len => .ctrl (ctrlWord 6#3 cmd len)
  | .illegalOp7 cmd len => .ctrl (ctrlWord 7#3 cmd len)
  | .ident => .wire cmdIdent
  | .setShutterAction => .wire p.cmdSetShutterAction
  | .getShutterAction => .wire p.cmdGetShutterAction
  | .setShutterPosition => .wire p.cmdSetShutterPosition
  | .getShutterPosition => .wire p.cmdGetShutterPosition
  | .setRelay => .wire cmdSetRelay
  | .getRelay => .wire p.cmdGetRelay
  | .setBuzzer => .wire p.cmdSetBuzzer
  | .getButton => .wire p.cmdGetButton
  | .unsupported c => .wire c

/-- `P_CMD_TABLE` (R6, R210), from the catalog's own summary (R222): the class and structure length of a command code.
A code that is none of the nine is UNSUPPORTED (R220). -/
def cmdTable (p : Params) (c : Byte) : CmdClass :=
  if c = cmdIdent then .read 7
  else if c = cmdSetRelay then .write 1
  else if c = p.cmdSetShutterAction then .write p.lenSetShutterAction
  else if c = p.cmdGetShutterAction then
    match p.classGetShutterAction with
    | .read => .read p.lenGetShutterAction
    | .unsupported => .unsupported
  else if c = p.cmdSetShutterPosition then .write p.lenSetShutterPosition
  else if c = p.cmdGetShutterPosition then .read p.lenGetShutterPosition
  else if c = p.cmdGetRelay then .read p.lenGetRelay
  else if c = p.cmdSetBuzzer then .write p.lenSetBuzzer
  else if c = p.cmdGetButton then .read p.lenGetButton
  else .unsupported

/-- Why a table word is no instruction. -/
inductive DecodeError where
  /-- The bits do not fit the width given with them, or are wider than a `CTRL` word (safe: no such word can be written, R61). -/
  | wordTooWide
  deriving DecidableEq, Repr

/-- The encoded form that a word of the opcode table stands for. A `CTRL` word has 32 bits and a command byte 8. A word given with at most
8 bits carries no mark of its format: the two assigned command codes (R211, R216) and every value above 7 are read as a command byte, the
other values below 8 as a `CTRL` word whose bits above the given ones are 0 (DESIGN CHOICE, log entry 14). -/
def tableForm (nbits w : Nat) : Except DecodeError Encoded :=
  if 2 ^ nbits ≤ w ∨ 2 ^ 32 ≤ w then .error .wordTooWide
  else if nbits ≤ 8 then
    if w = 3 ∨ w = 7 ∨ 7 < w then .ok (.wire (BitVec.ofNat 8 w)) else .ok (.ctrl (BitVec.ofNat 32 w))
  else .ok (.ctrl (BitVec.ofNat 32 w))

/-- The instruction of an opcode-table word, for the block that was built (`Config.build`). -/
def decodeTableWord (nbits w : Nat) : Option Instr :=
  match tableForm nbits w with
  | .ok e => some (decode Config.build e)
  | .error _ => none

end Sys2Proof
end

