-- ==== Sys2Proof/Machine/State.lean ====
section
/-! DEFINITION. The state of the block as plain data: the registers of R20 to R38, the build parameters it is made with (R6),
and the model's own fields for the outside world (what the host, the transport and the application will do next, and the record
of what the block has done: R5, R45). -/

namespace Sys2Proof.Machine

/-- The content of a register element (R10): UNSPEC, or a value written to it. Reading UNSPEC is no fault: each read is a fresh free value. -/
inductive Val (w : Nat) where
  /-- UNSPEC (R10): no defined value until written. -/
  | unspec
  /-- The value last written. -/
  | known (v : BitVec w)
  deriving DecidableEq, Repr

/-- `DSTATE` (R35). -/
inductive DState where
  | idle
  | seekLength
  | readCommand
  | readPayload
  | readChecksumHi
  | readChecksumLo
  deriving DecidableEq, Repr

/-- The result codes of R230 that an operation can end with; codes 12 to 15 are never produced. -/
inductive ResultCode where
  | ok
  | timeout
  | overflow
  | malformed
  | notSupported
  | invalidAnswer
  | txFailed
  | requestFailed
  | encodeTooLong
  | argError
  | roleError
  | illegalOp
  deriving DecidableEq, Repr

/-- `TSTATE` (R38): `T_IDLE`, or the port event the running operation waits on next. -/
inductive TState where
  /-- `T_IDLE`: no operation runs. -/
  | idle
  /-- The `WRITE` of a master's request (R171, R178). -/
  | writeRequest
  /-- The `RESERVE` of a master's operation (R172). -/
  | reserve
  /-- The next `DecodeStep` (R112). -/
  | poll
  /-- `APPGET(cmd, m)` (R194). -/
  | appGet (cmd : Byte) (m : PayloadLen)
  /-- `APPSET(cmd, a)`, `a` the first `m` payload bytes (R195, R197). -/
  | appSet (cmd : Byte) (m : PayloadLen)
  /-- The `WRITE` of a slave's reply; HANDLE ends with `result` if it is answered `ok` (R191). -/
  | writeReply (result : ResultCode)
  deriving DecidableEq, Repr

/-- The answer of the transport to a `WRITE` or a `RESERVE` (R45). -/
inductive Ack where
  | ok
  | fail
  deriving DecidableEq, Repr

/-- The port events of R45, each with its answer. -/
inductive PortEvent where
  | poll (answer : Option Byte)
  | noByte
  | write (bytes : List Byte) (answer : Ack)
  | reserve (count : Byte) (answer : Ack)
  | appGet (cmd : Byte) (m : Nat) (answer : List Byte)
  | appSet (cmd : Byte) (args : List Byte) (answer : Byte)
  deriving DecidableEq, Repr

/-- What the outside world may make happen next (R250, R260): the host writes or reads one register, asserts reset,
or lets the block take its own next step. -/
inductive HostAct where
  | wr (reg : Byte) (v : Word)
  | rd (reg : Byte)
  | reset
  | block
  deriving DecidableEq, Repr

/-- The whole state. The first group is the build (R6), the last the model's own record of the outside world. -/
structure State where
  /-- The build parameters (R6). No step changes them (R20). -/
  params : Params
  /-- `STATUS.BUSY` (R23). -/
  busy : Bool
  /-- `STATUS.DONE` (R23). -/
  done : Bool
  /-- `STATUS.FVALID` (R23, R30). -/
  fvalid : Bool
  /-- `STATUS.RESULT` (R23, R230). -/
  result : ResultCode
  /-- `TIMEOUT` (R24). -/
  timeout : Word
  /-- `ARG[0..25]` (R25). -/
  arg : Vector (Val 8) 26
  /-- `F_LEN` (R26). -/
  fLen : Val 8
  /-- `F_CMD` (R27). -/
  fCmd : Val 8
  /-- `F_PAY[0..25]` (R28). -/
  fPay : Vector (Val 8) 26
  /-- `F_CRC[15:8]` (R29, R119). -/
  fCrcHi : Val 8
  /-- `F_CRC[7:0]` (R29, R120). -/
  fCrcLo : Val 8
  /-- `OUT[0..25]` (R31). -/
  out : Vector (Val 8) 26
  /-- `OUT_LEN` (R31). -/
  outLen : Byte
  /-- `APP_STATUS` (R32). -/
  appStatus : Val 8
  /-- `TXB[0..63]` (R33). -/
  txb : Vector (Val 8) 64
  /-- `TX_LEN` (R33: 7 significant bits). -/
  txLen : BitVec 7
  /-- `DSTATE` (R35). -/
  dstate : DState
  /-- `TICKS` (R36). -/
  ticks : Word
  /-- `IDX` (R37). -/
  idx : Nat
  /-- `TSTATE` (R38). -/
  tstate : TState
  /-- `OP` (R38). -/
  op : BitVec 3
  /-- `REQ_CMD` (R38). -/
  reqCmd : Byte
  /-- `REQ_LEN` (R38). -/
  reqLen : Byte
  /-- MODEL'S OWN. What the host does next, first to happen first; when it is empty the block runs alone. -/
  host : List HostAct
  /-- MODEL'S OWN. The answers to the coming `POLL`s; past its end each answer is free. -/
  rx : List (Option Byte)
  /-- MODEL'S OWN. The answers to the coming `WRITE`s and `RESERVE`s; past its end each answer is free. -/
  acks : List Ack
  /-- MODEL'S OWN. The bytes the application answers with; past its end each byte is free. -/
  app : List Byte
  /-- MODEL'S OWN. How many readings have drawn free values so far (R10). -/
  draws : Nat
  /-- MODEL'S OWN. The port events so far (R5), the newest first. -/
  trace : List PortEvent
  /-- MODEL'S OWN. The host reads so far (R100), register number and value, the newest first. -/
  reads : List (Byte × Word)
  deriving DecidableEq, Repr

/-- Why the block takes no step. No rule of the spec stops the block: both cases are states that no run reaches
(`Sys2Proof.Machine.Inv` rules them out), and the spec gives them no step. -/
inductive Fault where
  /-- Raised by the block's step when `BUSY = 1` but no operation is in progress: `TSTATE` is `T_IDLE`, or a decode ended for an `OP`
  that runs none. Safe: no step is given where the spec gives none (log entry 13). -/
  | noOperation
  /-- Raised by the block's step when an operation waits on a `POLL` but `DSTATE` is `D_IDLE`. Safe, as above (log entry 13). -/
  | noDecode
  deriving DecidableEq, Repr

/-- Why an instruction has no meaning. -/
inductive Refusal where
  /-- Raised by `exec` for an instruction that has no meaning yet; no instruction of this model is one. Safe. -/
  | notModelled (mnemonic : String)
  deriving DecidableEq, Repr

/-- The outcome of a step or of an instruction. -/
abbrev Outcome := Host.Outcome State Fault Refusal

/-- The state after the `k`-th reset of a block built with `p` (R41). UNSPEC data elements are `unspec`; the hidden registers
`TICKS`, `IDX`, `OP`, `REQ_CMD` and `REQ_LEN`, which nothing reads before it writes them (R41), hold one free value each. -/
def State.resetWith (p : Params) (k : Nat) : State :=
  { params := p, busy := false, done := false, fvalid := false, result := .ok, timeout := 0#32,
    arg := Vector.replicate 26 .unspec, fLen := .unspec, fCmd := .unspec, fPay := Vector.replicate 26 .unspec,
    fCrcHi := .unspec, fCrcLo := .unspec, out := Vector.replicate 26 .unspec, outLen := 0#8, appStatus := .unspec,
    txb := Vector.replicate 64 .unspec, txLen := 0#7, dstate := .idle, ticks := Config.freeTicks k,
    idx := (Config.freeIdx k).val, tstate := .idle, op := Config.freeOp k, reqCmd := Config.freeReqCmd k,
    reqLen := Config.freeReqLen k, host := [], rx := [], acks := [], app := [], draws := 0, trace := [], reads := [] }

/-- The block right after reset (R41, R260), nothing yet said of the outside world. -/
def State.reset : State := State.resetWith Config.build 0

end Sys2Proof.Machine
end

