-- ==== Sys2Proof/Machine/Flags.lean ====
section
/-! DEFINITION. The block's flags BUSY, DONE and FVALID (R40), the result codes (R230) and the two hardwired or flag registers
STATUS (R23) and CONFIG (R34). -/

namespace Sys2Proof.Machine

/-- The numeric code of a result (R230). -/
def ResultCode.code : ResultCode → BitVec 4
  | .ok => 0#4
  | .timeout => 1#4
  | .overflow => 2#4
  | .malformed => 3#4
  | .notSupported => 4#4
  | .invalidAnswer => 5#4
  | .txFailed => 6#4
  | .requestFailed => 7#4
  | .encodeTooLong => 8#4
  | .argError => 9#4
  | .roleError => 10#4
  | .illegalOp => 11#4

/-- `STATUS.ROLE` and `CONFIG[16]` (R23, R34): 0 for a master, 1 for a slave. -/
def roleBit : Role → BitVec 1
  | .master => 0#1
  | .slave => 1#1

/-- The word `STATUS` reads as (R23). -/
def State.statusWord (s : State) : Word :=
  0#24 ++ s.result.code ++ roleBit s.params.role ++ BitVec.ofBool s.fvalid ++ BitVec.ofBool s.done ++ BitVec.ofBool s.busy

/-- The word `CONFIG` reads as (R34). -/
def State.configWord (s : State) : Word :=
  0#15 ++ roleBit s.params.role ++ BitVec.ofNat 8 txCap ++ BitVec.ofNat 8 payloadCap

/-- The flags of an operation start (R22): `BUSY <- 1`, `DONE <- 0`. -/
def State.startFlags (s : State) : State := { s with busy := true, done := false }

/-- The flags of an operation's end (R231): `RESULT <- code`, `BUSY <- 0`, `DONE <- 1`. -/
def State.finishFlags (c : ResultCode) (s : State) : State := { s with result := c, busy := false, done := true }

/-- `FVALID <- b` (R30). -/
def State.setFvalid (b : Bool) (s : State) : State := { s with fvalid := b }

end Sys2Proof.Machine
end

