-- ==== Sys2Proof/Machine/Ops.lean ====
section
/-! DEFINITION. The shared operations: register elements and free values (R10), the end of an operation (R231: the block's form of raising
an exception), the decoder's start and end (R111, R122), the checksum (R140, R141), the encoder (R150 to R155) and the port events (R45). -/

namespace Sys2Proof.Machine

/-! ### Register elements -/

/-- A reading of one element (R10): its value, or a free one named by the reading `k` and the position `i`. -/
def Val.value (k i : Nat) : Val 8 → Byte
  | .known b => b
  | .unspec => Config.draw k i

/-- A reading of a string of elements, positions `i, i+1, …` (R10: the draws are independent). -/
def valuesFrom (k : Nat) : Nat → List (Val 8) → List Byte
  | _, [] => []
  | i, v :: vs => v.value k i :: valuesFrom k (i + 1) vs

/-- The next reading draws afresh (R10: two reads may differ). -/
def State.drawn (s : State) : State := { s with draws := s.draws + 1 }

/-- `A[i]`; outside the array, which no rule reaches (R67), UNSPEC. -/
def readCell {n : Nat} (a : Vector (Val 8) n) (i : Nat) : Val 8 := a[i]?.getD .unspec

/-- `A[i] <- v`; outside the array, which no rule reaches (R67), nothing. -/
def writeCell {n : Nat} (a : Vector (Val 8) n) (i : Nat) (v : Val 8) : Vector (Val 8) n := a.setIfInBounds i v

/-- `A[i], A[i+1], … <- vs`. -/
def writeCells {n : Nat} (a : Vector (Val 8) n) (i : Nat) : List (Val 8) → Vector (Val 8) n
  | [] => a
  | v :: vs => writeCells (writeCell a i v) (i + 1) vs

/-- `[A[0], …, A[m-1]]`. -/
def takeCells {n : Nat} (a : Vector (Val 8) n) (m : Nat) : List (Val 8) := a.toList.take m

/-- The bytes of a string, written as they are. -/
def knownCells (bs : List Byte) : List (Val 8) := bs.map .known

/-- `v[15:8]` of a checksum (R84). -/
def hiByte (c : Half) : Byte := c.extractLsb' 8 8
/-- `v[7:0]` of a checksum (R84). -/
def loByte (c : Half) : Byte := c.extractLsb' 0 8

/-! ### The end of an operation -/

/-- `finish(code)` (R231), the only way an operation ends other than reset, and the block's form of raising an exception (R9). There is
no return from it: nothing is saved and nothing is restored (R238). -/
def State.finish (c : ResultCode) (s : State) : State :=
  { s.finishFlags c with tstate := .idle, dstate := .idle }

/-! ### The decoder's start and end -/

/-- `DecodeStart(T)` (R111): a frame constructed fresh, one tick budget for the whole decode (R123). -/
def State.decodeStart (t : Word) (s : State) : State :=
  { s.setFvalid false with
    ticks := t, idx := 0, dstate := .seekLength, fLen := .unspec, fCmd := .unspec, fCrcHi := .unspec, fCrcLo := .unspec,
    fPay := Vector.replicate 26 .unspec }

/-- `DecodeEnd(code)` (R122): `FVALID` is 1 exactly for OK. -/
def State.decodeEnd (c : ResultCode) (s : State) : State :=
  { s.setFvalid (decide (c = .ok)) with dstate := .idle }

/-- The frame is discarded: `FVALID <- 0`, after which its registers read as UNSPEC (R30). -/
def State.discardFrame (s : State) : State := s.setFvalid false

/-! ### The checksum -/

/-- One bit of CRC-16/CCITT-FALSE (93_implementation_defined.md G1). -/
def crcBit (c : Half) : Half := if c.getLsbD 15 then (c <<< 1) ^^^ 0x1021#16 else c <<< 1

/-- One byte of CRC-16/CCITT-FALSE (93_implementation_defined.md G1). -/
def crcByte (c : Half) (b : Byte) : Half :=
  crcBit (crcBit (crcBit (crcBit (crcBit (crcBit (crcBit (crcBit (c ^^^ (b.setWidth 16 <<< 8)))))))))

/-- `P_CRC` (R140): total, deterministic and stateless (R244). -/
def pCrc (alg : CrcAlg) (bs : List Byte) : Half :=
  match alg with
  | .provider n => Config.crcProvider n bs
  | .ccittFalse => bs.foldl crcByte 0xFFFF#16

/-- `IMAGE` of R140: `[F_LEN, F_CMD] ++ F_PAY[0..25]`, 28 elements. -/
def State.frameImage (s : State) : List (Val 8) := s.fLen :: s.fCmd :: s.fPay.toList

/-- `RANGE` of R140: the first `F_LEN` bytes of the image, as one reading of it gives them. -/
def State.frameRange (s : State) : List Byte :=
  (valuesFrom s.draws 0 s.frameImage).take (s.fLen.value s.draws 28).toNat

/-- `F_CRC` as the 16-bit value `(hi << 8) | lo` (R63). -/
def State.frameCrc (s : State) : Half := s.fCrcHi.value s.draws 29 ++ s.fCrcLo.value s.draws 30

/-- `CrcOk` (R141). It draws for UNSPEC elements, so its caller takes a `drawn` step afterwards; it writes nothing else. -/
def State.crcOk (s : State) : Bool := decide (pCrc s.params.crc s.frameRange = s.frameCrc)

/-- `F_CMD` as one reading gives it. -/
def State.frameCmd (s : State) : Byte := s.fCmd.value s.draws 31

/-! ### The encoder -/

/-- The `length` byte of a frame with `n` payload bytes (R81). -/
def lengthByte (n : Nat) : Byte := BitVec.ofNat 8 (headerLen + n)

/-- The checksum of a frame (R152): over `[L, cmd] ++ s`, `s` as one reading of the payload elements gives it. -/
def State.encodeCrc (cmd : Byte) (payload : List (Val 8)) (s : State) : Half :=
  pCrc s.params.crc (lengthByte payload.length :: cmd :: valuesFrom s.draws 0 payload)

/-- The elements `TXB[0 .. n+4]` of a frame (R80, R152): an element written from an UNSPEC element is UNSPEC (R10). -/
def State.frameCells (cmd : Byte) (payload : List (Val 8)) (s : State) : List (Val 8) :=
  .known s.params.preamble :: .known (lengthByte payload.length) :: .known cmd ::
    (payload ++ [.known (hiByte (s.encodeCrc cmd payload)), .known (loByte (s.encodeCrc cmd payload))])

/-- The capacity check of R151. -/
def fitsFrame (n : Nat) : Bool := decide (n ≤ payloadCap) && decide (n + overhead ≤ txCap)

/-- `Encode(cmd, s)` (R150 to R155): ENCODE_TOO_LONG and nothing written, or the frame in `TXB` and its size in `TX_LEN`. -/
def encodeFrame (cmd : Byte) (payload : List (Val 8)) (s : State) : ResultCode × State :=
  if fitsFrame payload.length then
    (.ok, { s.drawn with txb := writeCells s.txb 0 (s.frameCells cmd payload), txLen := BitVec.ofNat 7 (payload.length + overhead) })
  else (.encodeTooLong, s)

/-! ### Port events -/

/-- The transport's next answer to a `POLL`, or a free one (R45, R243). -/
def nextPoll (s : State) : Option Byte :=
  match s.rx with
  | a :: _ => a
  | [] => Config.freePoll s.draws

/-- `POLL` (R45): a byte answered is consumed from the transport (R65). -/
def portPoll (s : State) : Option Byte × State :=
  (nextPoll s, { s.drawn with rx := s.rx.tail, trace := .poll (nextPoll s) :: s.trace })

/-- `NOBYTE`, in the step of the `POLL` answered `none` (R45, R115). -/
def portNoByte (s : State) : State := { s with trace := .noByte :: s.trace }

/-- The transport's next answer to a `WRITE` or a `RESERVE`, or a free one (R45). -/
def nextAck (s : State) : Ack :=
  match s.acks with
  | a :: _ => a
  | [] => if Config.freeAck s.draws then .ok else .fail

/-- The bytes of the frame to transmit, `TXB[0 .. TX_LEN-1]` (R153), as one reading gives them. -/
def State.txFrame (s : State) : List Byte := valuesFrom s.draws 0 (takeCells s.txb s.txLen.toNat)

/-- `WRITE([TXB[0], …, TXB[TX_LEN-1]])` (R45, R66). -/
def portWrite (s : State) : Ack × State :=
  (nextAck s, { s.drawn with acks := s.acks.tail, trace := .write s.txFrame (nextAck s) :: s.trace })

/-- `RESERVE(n)` (R45, R172). -/
def portReserve (n : Byte) (s : State) : Ack × State :=
  (nextAck s, { s.drawn with acks := s.acks.tail, trace := .reserve n (nextAck s) :: s.trace })

/-- The next `m` bytes of the application's answer, free ones where it has given none (R45, R245). -/
def appBytes (m : Nat) (s : State) : List Byte :=
  valuesFrom s.draws 0 (knownCells (s.app.take m) ++ List.replicate (m - s.app.length) .unspec)

/-- `APPGET(cmd, m)` (R45, R194): always `m` bytes. -/
def portAppGet (cmd : Byte) (m : Nat) (s : State) : List Byte × State :=
  (appBytes m s, { s.drawn with app := s.app.drop m, trace := .appGet cmd m (appBytes m s) :: s.trace })

/-- The next byte of the application's answer, or a free one (R45, R245). It is drawn at position 26, past the setter's argument. -/
def appByte (s : State) : Byte :=
  match s.app with
  | b :: _ => b
  | [] => Config.draw s.draws 26

/-- `APPSET(cmd, a)` (R45, R195): one result byte. The argument elements are read in the same event: where one is UNSPEC the event
carries a free value (R197). -/
def portAppSet (cmd : Byte) (args : List (Val 8)) (s : State) : Byte × State :=
  (appByte s,
   { s.drawn with app := s.app.tail, trace := .appSet cmd (valuesFrom s.draws 0 args) (appByte s) :: s.trace })

end Sys2Proof.Machine
end

