-- ==== Sys2Proof/Machine/Operands.lean ====
section
/-! DEFINITION. Where an operation's operands come from (R90: the `CTRL` fields, latched by R38, and `ARG`), and the host's register
space (R21): what a read gives and what a write stores. -/

namespace Sys2Proof.Machine

/-! ### Operation codes and latched operands -/

/-- `CTRL.OP` of DECODE (R91). -/
abbrev opDecode : BitVec 3 := 1#3
/-- `CTRL.OP` of VALIDATE (R91). -/
abbrev opValidate : BitVec 3 := 2#3
/-- `CTRL.OP` of ENCODE (R91). -/
abbrev opEncode : BitVec 3 := 3#3
/-- `CTRL.OP` of REQUEST_DATA (R91). -/
abbrev opRequestData : BitVec 3 := 4#3
/-- `CTRL.OP` of SEND_ACTION (R91). -/
abbrev opSendAction : BitVec 3 := 5#3
/-- `CTRL.OP` of HANDLE (R91). -/
abbrev opHandle : BitVec 3 := 6#3
/-- The illegal code 0 (R98). -/
abbrev opIllegal0 : BitVec 3 := 0#3
/-- The illegal code 7 (R98). -/
abbrev opIllegal7 : BitVec 3 := 7#3

/-- The start of a host operation (R22, R38, R90): the operands are latched, `BUSY <- 1`, `DONE <- 0`. -/
def State.start (op : BitVec 3) (cmd len : Byte) (s : State) : State :=
  { s.startFlags with op := op, reqCmd := cmd, reqLen := len }

/-- `[ARG[0], …, ARG[n-1]]`, `n = REQ_LEN` (R25). -/
def State.argCells (s : State) : List (Val 8) := takeCells s.arg s.reqLen.toNat

/-- The count a `RESERVE` announces (R172): `n + P_RESERVE_OVERHEAD` for REQUEST_DATA, `1 + P_RESERVE_OVERHEAD` for SEND_ACTION. -/
def State.reserveCount (s : State) : Byte :=
  BitVec.ofNat 8 ((if s.op = opRequestData then s.reqLen.toNat else 1) + s.params.reserveOverhead.val)

/-! ### The host's register space -/

/-- A byte register as the 32-bit value a host access carries (R9: zero-extended). -/
def byteWord (b : Byte) : Word := b.setWidth 32

/-- A frame register as the host sees it: UNSPEC while `FVALID = 0` (R30). -/
def State.frameView (s : State) (v : Val 8) : Val 8 := if s.fvalid then v else .unspec

/-- `FRAME_HDR` (R21): `F_CRC`, `F_CMD`, `F_LEN`. -/
def State.frameHdr (s : State) : Word :=
  (s.frameView s.fCrcHi).value s.draws 3 ++ (s.frameView s.fCrcLo).value s.draws 2 ++
    (s.frameView s.fCmd).value s.draws 1 ++ (s.frameView s.fLen).value s.draws 0

/-- `RESULT_AUX` (R21): 0, `TX_LEN`, `OUT_LEN`, `APP_STATUS`. -/
def State.resultAux (s : State) : Word := 0#8 ++ s.txLen.setWidth 8 ++ s.outLen ++ s.appStatus.value s.draws 0

/-- The register numbers of R21 that hold one byte: `ARG`, `F_PAY`, `OUT` and `TXB`. -/
def isByteReg (r : Nat) : Bool :=
  (decide (0x20 ≤ r) && decide (r < 0x3A)) || (decide (0x40 ≤ r) && decide (r < 0x5A)) ||
    (decide (0x60 ≤ r) && decide (r < 0x7A)) || (decide (0x80 ≤ r) && decide (r < 0xC0))

/-- What a read gives while `BUSY = 1` for a register other than `STATUS` and `CONFIG` (R42): a free value of the register's width.
An unmapped number is no register and reads 0 (R21). -/
def State.busyRead (s : State) (r : Nat) : Word :=
  if r = 0 ∨ r = 2 ∨ r = 4 ∨ r = 5 then
    Config.draw s.draws 3 ++ Config.draw s.draws 2 ++ Config.draw s.draws 1 ++ Config.draw s.draws 0
  else if isByteReg r then byteWord (Config.draw s.draws 0)
  else 0#32

/-- What a read gives while `BUSY = 0` (R21, R42); `CTRL` reads 0 (R22), as does every unmapped number. -/
def State.idleRead (s : State) (r : Nat) : Word :=
  if r = 2 then s.timeout
  else if r = 4 then s.frameHdr
  else if r = 5 then s.resultAux
  else if 0x20 ≤ r ∧ r < 0x3A then byteWord ((readCell s.arg (r - 0x20)).value s.draws 0)
  else if 0x40 ≤ r ∧ r < 0x5A then byteWord ((s.frameView (readCell s.fPay (r - 0x40))).value s.draws 0)
  else if 0x60 ≤ r ∧ r < 0x7A then byteWord ((readCell s.out (r - 0x60)).value s.draws 0)
  else if 0x80 ≤ r ∧ r < 0xC0 then byteWord ((readCell s.txb (r - 0x80)).value s.draws 0)
  else 0#32

/-- The value of a host read of register `n` (R21, R23, R34, R42). -/
def State.hostReadValue (s : State) (n : Byte) : Word :=
  if n.toNat = 1 then s.statusWord
  else if n.toNat = 3 then s.configWord
  else if s.busy then s.busyRead n.toNat
  else s.idleRead n.toNat

/-- A host read: no side effect (R65); its value is part of the observation (R100). -/
def State.hostRead (n : Byte) (s : State) : State :=
  { s.drawn with reads := (n, s.hostReadValue n) :: s.reads }

/-- A host write to a register other than `CTRL` (R43, R44): `TIMEOUT` and `ARG[i]` while `BUSY = 0`, nothing otherwise.
An `ARG` element takes the low 8 bits of the value (R61; log entry 11). -/
def State.hostStore (n : Byte) (v : Word) (s : State) : State :=
  if s.busy then s
  else if n.toNat = 2 then { s with timeout := v }
  else if 0x20 ≤ n.toNat ∧ n.toNat < 0x3A then { s with arg := writeCell s.arg (n.toNat - 0x20) (.known (v.setWidth 8)) }
  else s

/-- Reset (R260, R261): every state element takes its value of R41 and no port event happens. The build, the outside world's coming
inputs and the record of what has happened are no state of the block and stay. -/
def State.hardReset (s : State) : State :=
  { State.resetWith s.params s.draws with
    host := s.host, rx := s.rx, acks := s.acks, app := s.app, draws := s.draws + 1, trace := s.trace, reads := s.reads }

end Sys2Proof.Machine
end

