-- ==== Sys2Proof/Machine/Codec.lean ====
section
/-! DEFINITION. The host operations both roles have (R97): the illegal codes (R98), DECODE (R124), VALIDATE (R144) and ENCODE (R156).
Each is what happens in the step of the `CTRL` write (R46): the whole operation, but for DECODE, which goes on with one `DecodeStep` a step. -/

namespace Sys2Proof.Machine

/-- An operation with an illegal code (R98): it starts and finishes at once with ILLEGAL_OP. -/
def illegalStart (op : BitVec 3) (cmd len : Byte) (s : State) : State := (s.start op cmd len).finish .illegalOp

/-- `OP = 0` (R98). -/
def execIllegalOp0 (cmd len : Byte) (s : State) : Outcome := .next (illegalStart opIllegal0 cmd len s)

/-- `OP = 7` (R98). -/
def execIllegalOp7 (cmd len : Byte) (s : State) : Outcome := .next (illegalStart opIllegal7 cmd len s)

/-- A decode begins and the operation waits on its first `DecodeStep` (R111, R112). -/
def beginDecode (s : State) : State := { s.decodeStart s.timeout with tstate := .poll }

/-- DECODE (R124). -/
def execDecode (cmd len : Byte) (s : State) : Outcome := .next (beginDecode (s.start opDecode cmd len))

/-- The verdict of VALIDATE (R144, R145): it changes nothing but the flags. -/
def validateFrame (s : State) : State :=
  if s.fvalid then s.drawn.finish (if s.crcOk then .ok else .malformed) else s.finish .argError

/-- VALIDATE (R144). -/
def execValidate (cmd len : Byte) (s : State) : Outcome := .next (validateFrame (s.start opValidate cmd len))

/-- ENCODE's work (R156): `n > PAYLOAD_CAP` is ENCODE_TOO_LONG, since `ARG` has only 26 bytes. -/
def encodeArgs (s : State) : State :=
  if payloadCap < s.reqLen.toNat then s.finish .encodeTooLong
  else
    let (code, s') := encodeFrame s.reqCmd s.argCells s
    s'.finish code

/-- ENCODE (R156). -/
def execEncode (cmd len : Byte) (s : State) : Outcome := .next (encodeArgs (s.start opEncode cmd len))

end Sys2Proof.Machine
end

