-- ==== Sys2Proof/Machine/Slave.lean ====
section
/-! DEFINITION. The slave transaction coordinator: HANDLE (R191) in the step of the `CTRL` write, and the three ways the dispatcher
answers a request (R194, R195, R196). The wire commands of Catalog.lean choose among them. -/

namespace Sys2Proof.Machine

/-- HANDLE's role check (R190), then its decode (R191). -/
def handleStart (s : State) : State :=
  if s.params.role ≠ .slave then s.finish .roleError else beginDecode s

/-- HANDLE (R191). -/
def execHandle (cmd len : Byte) (s : State) : Outcome := .next (handleStart (s.start opHandle cmd len))

/-- A READ(m) command (R194): the getter is called next; the request's payload is not read. -/
def dispatchRead (cmd : Byte) (m : PayloadLen) (s : State) : State := { s with tstate := .appGet cmd m }

/-- A WRITE(m) command (R195): the setter is called next. -/
def dispatchWrite (cmd : Byte) (m : PayloadLen) (s : State) : State := { s with tstate := .appSet cmd m }

/-- A reply is built and HANDLE waits on its `WRITE` (R191); `result` is HANDLE's result if the `WRITE` is answered `ok`. -/
def sendReply (result : ResultCode) (cmd : Byte) (payload : List (Val 8)) (s : State) : State :=
  { (encodeFrame cmd payload s).2 with tstate := .writeReply result }

/-- An unrecognised command (R196): no callback; the status frame with `P_STATUS_NOT_SUPPORTED`. -/
def dispatchUnsupported (cmd : Byte) (s : State) : State :=
  sendReply .notSupported cmd [.known s.params.statusNotSupported]
    { s with appStatus := .known s.params.statusNotSupported }

/-- After `APPGET` (R194): the getter's bytes are the reply's payload. -/
def replyData (cmd : Byte) (bytes : List Byte) (s : State) : State := sendReply .ok cmd (knownCells bytes) s

/-- After `APPSET` (R195): the setter's result byte is `APP_STATUS` and the reply's one payload byte, whatever it is (R199). -/
def replyStatus (cmd st : Byte) (s : State) : State :=
  sendReply .ok cmd [.known st] { s with appStatus := .known st }

end Sys2Proof.Machine
end

