-- ==== Sys2Proof/Machine/Catalog.lean ====
section
/-! DEFINITION. The on-wire command catalog (R210 to R222): what each command is to a slave whose HANDLE has received it in a frame
that passed its checksum (R191). The command goes on with the port event it waits on. -/

namespace Sys2Proof.Machine

/-- Identification query (R211): READ(7). -/
def execIdent (s : State) : Outcome := .next (dispatchRead cmdIdent 7 s)

/-- Set shutter action (R212): WRITE(`P_LEN_SET_SHUTTER_ACTION`). -/
def execSetShutterAction (s : State) : Outcome :=
  .next (dispatchWrite s.params.cmdSetShutterAction s.params.lenSetShutterAction s)

/-- Get shutter action (R213, R220): READ(`P_LEN_GET_SHUTTER_ACTION`), or UNSUPPORTED, as `P_CLASS_GET_SHUTTER_ACTION` says. -/
def getShutterAction (s : State) : State :=
  match s.params.classGetShutterAction with
  | .read => dispatchRead s.params.cmdGetShutterAction s.params.lenGetShutterAction s
  | .unsupported => dispatchUnsupported s.params.cmdGetShutterAction s

/-- Get shutter action (R213). -/
def execGetShutterAction (s : State) : Outcome := .next (getShutterAction s)

/-- Set shutter position (R214): WRITE(`P_LEN_SET_SHUTTER_POSITION`). -/
def execSetShutterPosition (s : State) : Outcome :=
  .next (dispatchWrite s.params.cmdSetShutterPosition s.params.lenSetShutterPosition s)

/-- Get shutter position (R215): READ(`P_LEN_GET_SHUTTER_POSITION`). -/
def execGetShutterPosition (s : State) : Outcome :=
  .next (dispatchRead s.params.cmdGetShutterPosition s.params.lenGetShutterPosition s)

/-- Set relay switch (R216): WRITE(1). -/
def execSetRelay (s : State) : Outcome := .next (dispatchWrite cmdSetRelay 1 s)

/-- Get relay switch (R217): READ(`P_LEN_GET_RELAY`). -/
def execGetRelay (s : State) : Outcome := .next (dispatchRead s.params.cmdGetRelay s.params.lenGetRelay s)

/-- Set buzzer action (R218): WRITE(`P_LEN_SET_BUZZER`). -/
def execSetBuzzer (s : State) : Outcome := .next (dispatchWrite s.params.cmdSetBuzzer s.params.lenSetBuzzer s)

/-- Get switch-button state (R219): READ(`P_LEN_GET_BUTTON`). -/
def execGetButton (s : State) : Outcome := .next (dispatchRead s.params.cmdGetButton s.params.lenGetButton s)

/-- Any other command code (R220, R196). -/
def execUnsupported (command : Byte) (s : State) : Outcome := .next (dispatchUnsupported command s)

end Sys2Proof.Machine
end

