-- ==== Sys2Proof/Machine/Master.lean ====
section
/-! DEFINITION. The master transaction coordinator: REQUEST_DATA (R171) and SEND_ACTION (R178), from the `CTRL` write to the `WRITE`
they wait on, and what they do with a decoded reply (R175). The port events between are in Block.lean. -/

namespace Sys2Proof.Machine

/-- The request frame is built and the operation waits on its `WRITE` (R171, R178). -/
def sendRequest (payload : List (Val 8)) (s : State) : State :=
  { (encodeFrame s.reqCmd payload s).2 with tstate := .writeRequest }

/-- The checks of REQUEST_DATA in the step of the `CTRL` write (R170, R177), then its request (R171). -/
def requestDataStart (s : State) : State :=
  if s.params.role ≠ .master then s.finish .roleError
  else if payloadCap < s.reqLen.toNat then s.finish .argError
  else sendRequest [] s

/-- REQUEST_DATA (R171). -/
def execRequestData (cmd len : Byte) (s : State) : Outcome := .next (requestDataStart (s.start opRequestData cmd len))

/-- The checks of SEND_ACTION in the step of the `CTRL` write (R170, R182), then its request (R178). -/
def sendActionStart (s : State) : State :=
  if s.params.role ≠ .master then s.finish .roleError
  else if payloadCap < s.reqLen.toNat then s.finish .encodeTooLong
  else sendRequest s.argCells s

/-- SEND_ACTION (R178). -/
def execSendAction (cmd len : Byte) (s : State) : Outcome := .next (sendActionStart (s.start opSendAction cmd len))

/-- The checks of a reply, in R175's order: the decode result, `CrcOk`, the command echo. `accept` is what the operation does with a
reply that passes them. -/
def checkReply (accept : State → State) (c : ResultCode) (s : State) : State :=
  if c ≠ .ok then s.finish c
  else if !s.crcOk then s.drawn.discardFrame.finish .malformed
  else if s.frameCmd ≠ s.reqCmd then s.drawn.discardFrame.finish .invalidAnswer
  else (accept s.drawn).finish .ok

/-- REQUEST_DATA's copy-out (R173): exactly `n` elements, whatever the reply's length, and `OUT_LEN <- n`. -/
def copyOut (s : State) : State :=
  { s with out := writeCells s.out 0 (takeCells s.fPay s.reqLen.toNat), outLen := s.reqLen }

/-- SEND_ACTION's status byte (R179), whatever the reply's length. -/
def takeStatus (s : State) : State := { s with appStatus := readCell s.fPay 0 }

/-- What REQUEST_DATA does when its decode ends with `c` (R171). -/
def requestDataReply (c : ResultCode) (s : State) : State := checkReply copyOut c s

/-- What SEND_ACTION does when its decode ends with `c` (R178). -/
def sendActionReply (c : ResultCode) (s : State) : State := checkReply takeStatus c s

end Sys2Proof.Machine
end

