-- ==== Sys2Proof/Machine/Dispatch.lean ====
section
/-! DEFINITION. One arm per instruction (spec/opcode_table.json). -/

namespace Sys2Proof.Machine

/-- What an instruction does: a host operation in the step of its `CTRL` write (R22, R46), a wire command in the step in which HANDLE
has found its frame intact (R191). -/
def exec (i : Instr) (s : State) : Host.Outcome State Fault Refusal :=
  match i with
  | .illegalOp0 cmd len => Sys2Proof.Machine.execIllegalOp0 cmd len s
  | .decode cmd len => Sys2Proof.Machine.execDecode cmd len s
  | .validate cmd len => Sys2Proof.Machine.execValidate cmd len s
  | .encode cmd len => Sys2Proof.Machine.execEncode cmd len s
  | .requestData cmd len => Sys2Proof.Machine.execRequestData cmd len s
  | .sendAction cmd len => Sys2Proof.Machine.execSendAction cmd len s
  | .handle cmd len => Sys2Proof.Machine.execHandle cmd len s
  | .illegalOp7 cmd len => Sys2Proof.Machine.execIllegalOp7 cmd len s
  | .ident => Sys2Proof.Machine.execIdent s
  | .setShutterAction => Sys2Proof.Machine.execSetShutterAction s
  | .getShutterAction => Sys2Proof.Machine.execGetShutterAction s
  | .setShutterPosition => Sys2Proof.Machine.execSetShutterPosition s
  | .getShutterPosition => Sys2Proof.Machine.execGetShutterPosition s
  | .setRelay => Sys2Proof.Machine.execSetRelay s
  | .getRelay => Sys2Proof.Machine.execGetRelay s
  | .setBuzzer => Sys2Proof.Machine.execSetBuzzer s
  | .getButton => Sys2Proof.Machine.execGetButton s
  | .unsupported command => Sys2Proof.Machine.execUnsupported command s

end Sys2Proof.Machine
end

