-- ==== Sys2Proof/Machine/Block.lean ====
section
/-! DEFINITION. The block's own step while an operation runs (R46): one port event, and everything up to the next one. -/

namespace Sys2Proof.Machine

/-! ### What follows a decode -/

/-- HANDLE when its decode ends with `c` (R191): no reply to a failed decode (R192) or checksum (R193); otherwise the command code, read
only now (R147), selects what is done (R197). -/
def handleFrame (c : ResultCode) (s : State) : Outcome :=
  if c ≠ .ok then .next (s.finish c)
  else if !s.crcOk then .next (s.drawn.discardFrame.finish .malformed)
  else exec (decode s.params (.wire s.frameCmd)) s.drawn

/-- The end of a decode (R122): the operation that runs it goes on in the same step (R124, R171, R178, R191). -/
def afterDecode (c : ResultCode) (s : State) : Outcome :=
  if s.op = opDecode then .next (s.finish c)
  else if s.op = opRequestData then .next (requestDataReply c s)
  else if s.op = opSendAction then .next (sendActionReply c s)
  else if s.op = opHandle then handleFrame c s
  else .fault .noOperation

/-! ### The decoder's step -/

/-- State SEEK_LENGTH (R116, R87). -/
def takeLength (b : Byte) (s : State) : State :=
  if b = s.params.preamble then s else { s with fLen := .known b, dstate := .readCommand }

/-- State READ_COMMAND (R117): with no payload due, payload collection is skipped (R127). -/
def takeCommand (b : Byte) (s : State) : State :=
  { s.drawn with
    fCmd := .known b,
    dstate := if headerLen < (s.fLen.value s.draws 0).toNat then .readPayload else .readChecksumHi }

/-- State READ_PAYLOAD (R118): the comparison uses the new `IDX`; it is `IDX = F_LEN - HEADER_LEN`, written without the subtraction. -/
def takePayload (b : Byte) (s : State) : State :=
  { s.drawn with
    fPay := writeCell s.fPay s.idx (.known b),
    idx := s.idx + 1,
    dstate := if s.idx + 1 + headerLen = (s.fLen.value s.draws 0).toNat then .readChecksumHi else .readPayload }

/-- State READ_CHECKSUM_HI (R119). -/
def takeChecksumHi (b : Byte) (s : State) : State := { s with fCrcHi := .known b, dstate := .readChecksumLo }

/-- State READ_CHECKSUM_LO (R120), less the `DecodeEnd(OK)` that follows in the same step. -/
def takeChecksumLo (b : Byte) (s : State) : State := { s with fCrcLo := .known b }

/-- A received byte (R116 to R120). -/
def takeByte (b : Byte) (s : State) : Outcome :=
  match s.dstate with
  | .idle => .fault .noDecode
  | .seekLength => .next (takeLength b s)
  | .readCommand => .next (takeCommand b s)
  | .readPayload => .next (takePayload b s)
  | .readChecksumHi => .next (takeChecksumHi b s)
  | .readChecksumLo => afterDecode .ok ((takeChecksumLo b s).decodeEnd .ok)

/-- A `POLL` and what follows it: a failed one costs a tick and signals `NOBYTE` in the same step (R115). -/
def pollStep (s : State) : Outcome :=
  match portPoll s with
  | (none, s') => .next (portNoByte { s' with ticks := s'.ticks - 1 })
  | (some b, s') => takeByte b s'

/-- `DecodeStep()` (R112): overflow (R113), then the tick budget (R114), then the poll. -/
def decodeStep (s : State) : Outcome :=
  if s.dstate = .idle then .fault .noDecode
  else if s.dstate = .readPayload ∧ s.idx = payloadCap then afterDecode .overflow (s.decodeEnd .overflow)
  else if s.ticks = 0#32 then afterDecode .timeout (s.decodeEnd .timeout)
  else pollStep s

/-! ### The other port events -/

/-- The `WRITE` of a request (R171, R178). -/
def writeRequestStep (s : State) : State :=
  match portWrite s with
  | (.ok, s') => { s' with tstate := .reserve }
  | (.fail, s') => s'.finish .txFailed

/-- The `RESERVE` (R172), after which the decode of the reply begins. -/
def reserveStep (s : State) : State :=
  match portReserve s.reserveCount s with
  | (.ok, s') => beginDecode s'
  | (.fail, s') => s'.finish .requestFailed

/-- The getter's call and the reply it gives (R194). -/
def appGetStep (cmd : Byte) (m : PayloadLen) (s : State) : State :=
  match portAppGet cmd m.val s with
  | (bytes, s') => replyData cmd bytes s'

/-- The setter's call, with the first `m` payload elements whatever `F_LEN` is (R197), and the status reply (R195). -/
def appSetStep (cmd : Byte) (m : PayloadLen) (s : State) : State :=
  match portAppSet cmd (takeCells s.fPay m.val) s with
  | (st, s') => replyStatus cmd st s'

/-- The `WRITE` of a reply (R191, R200). -/
def writeReplyStep (result : ResultCode) (s : State) : State :=
  match portWrite s with
  | (.ok, s') => s'.finish result
  | (.fail, s') => s'.finish .txFailed

/-- The block's step while `BUSY = 1` (R46): the port event `TSTATE` waits on. -/
def blockStep (s : State) : Outcome :=
  match s.tstate with
  | .idle => .fault .noOperation
  | .writeRequest => .next (writeRequestStep s)
  | .reserve => .next (reserveStep s)
  | .poll => decodeStep s
  | .appGet cmd m => .next (appGetStep cmd m s)
  | .appSet cmd m => .next (appSetStep cmd m s)
  | .writeReply result => .next (writeReplyStep result s)

/-- The block's turn: with `BUSY = 0` it makes no port event and changes no state (R249). -/
def blockTurn (s : State) : Outcome := if s.busy then blockStep s else .next s

/-! ### The host's turn -/

/-- A host write (R22, R43, R44): to `CTRL` with `BUSY = 0` it starts the operation the word encodes; with `BUSY = 1` it is lost. -/
def hostWrite (n : Byte) (v : Word) (s : State) : Outcome :=
  if n.toNat = 0 then if s.busy then .next s else exec (decode s.params (.ctrl v)) s
  else .next (s.hostStore n v)

/-- One act of the outside world (R250, R260). -/
def hostTurn (a : HostAct) (s : State) : Outcome :=
  match a with
  | .wr n v => hostWrite n v s
  | .rd n => .next (s.hostRead n)
  | .reset => .next s.hardReset
  | .block => blockTurn s

/-- The next turn: the host's coming act, or the block's own step when the host does nothing more. -/
def nextTurn (s : State) : Outcome :=
  match s.host with
  | [] => blockTurn s
  | a :: rest => hostTurn a { s with host := rest }

/-! ### Placing an instruction -/

/-- `CTRL <- w` is the host's next act, and the block is free to start it. -/
def placeCtrl (w : Word) (s : State) : State :=
  { s with busy := false, tstate := .idle, dstate := .idle, host := .wr 0#8 w :: s.host }

/-- A HANDLE is one `POLL` from the end of a frame `02 b hi lo` that carries command `b`, no payload and a matching checksum, and the block
takes its step next. The checksum provider is the test instance, so that the checksum is a number (log entry 15). -/
def placeWire (b : Byte) (s : State) : State :=
  let c := pCrc .ccittFalse [0x02#8, b]
  { s with
    params := { s.params with role := .slave, crc := .ccittFalse },
    busy := true, done := false, fvalid := false, op := opHandle, tstate := .poll, dstate := .readChecksumLo, idx := 0,
    ticks := 1#32, fLen := .known 0x02#8, fCmd := .known b, fCrcHi := .known (hiByte c),
    rx := some (loByte c) :: s.rx, host := .block :: s.host }

end Sys2Proof.Machine
end

