-- ==== Sys2Proof/Machine/Step.lean ====
section
/-! DEFINITION. One step of the machine, and the placing of an instruction where the next step runs it. -/

namespace Sys2Proof.Machine

/-- One step: the host's next act, or the block's own step (R46, R250). -/
def step (s : State) : Host.Outcome State Fault Refusal := nextTurn s

/-- The state whose next step runs the instruction of an opcode-table word (log entries 14, 15): a `CTRL` word is the host's next write
(R22), a command byte is the command of the frame a HANDLE is about to complete (R191). -/
def State.withFetchWord (s : State) (nbits w : Nat) : State :=
  match tableForm nbits w with
  | .ok (.ctrl v) => placeCtrl v s
  | .ok (.wire b) => placeWire b s
  | .error _ => s

end Sys2Proof.Machine
end

