-- ==== Sys2Proof/Safety.lean ====
section
/-! DEFINITION. What a safe state is: the invariant of the block (`Inv`), from the rules that say what its registers may hold together,
and the vocabulary of the statements about runs (which port events a role makes, which a step adds). -/

namespace Sys2Proof.Machine

/-- The element holds a written value (R10). -/
def Val.isKnown : Val 8 → Bool
  | .known _ => true
  | .unspec => false

/-- `p(L)` (R86): how many payload bytes follow a `length` byte `L`. -/
def payloadDue (l : Byte) : Nat := l.toNat - headerLen

/-- The first `n` elements of `F_PAY` hold received bytes (R118, R121). -/
def State.payloadKnown (s : State) (n : Nat) : Prop := ∀ i < n, (readCell s.fPay i).isKnown = true

/-- The frame registers hold a `length` byte that a decode may take (R116: never the sentinel) and is not oversized, a command byte
and all the payload bytes due (R121). -/
def State.holdsFrame (s : State) : Prop :=
  ∃ l, s.fLen = .known l ∧ l ≠ s.params.preamble ∧ l.toNat ≤ maxLength ∧ s.fCmd.isKnown = true ∧ s.payloadKnown (payloadDue l)

/-- What a decode in progress has received so far (R116 to R120). -/
def State.decodeShape (s : State) : Prop :=
  match s.dstate with
  | .idle => True
  | .seekLength => s.idx = 0
  | .readCommand => s.idx = 0 ∧ ∃ l, s.fLen = .known l ∧ l ≠ s.params.preamble
  | .readPayload =>
    ∃ l, s.fLen = .known l ∧ l ≠ s.params.preamble ∧ s.fCmd.isKnown = true ∧ s.idx + headerLen < l.toNat ∧ s.payloadKnown s.idx
  | .readChecksumHi => s.holdsFrame
  | .readChecksumLo => s.holdsFrame ∧ s.fCrcHi.isKnown = true

/-- The operation in progress is one its role admits (R97, R240) and waits on an event it makes (R171, R178, R191). -/
def State.positionFits (s : State) : Prop :=
  match s.tstate with
  | .idle => True
  | .writeRequest => s.params.role = .master ∧ (s.op = opRequestData ∨ s.op = opSendAction) ∧ s.txLen ≠ 0#7
  | .reserve => s.params.role = .master ∧ (s.op = opRequestData ∨ s.op = opSendAction)
  | .poll =>
    s.op = opDecode ∨ (s.params.role = .master ∧ (s.op = opRequestData ∨ s.op = opSendAction)) ∨
      (s.params.role = .slave ∧ s.op = opHandle)
  | .appGet _ _ => s.params.role = .slave ∧ s.op = opHandle ∧ s.fvalid = true
  | .appSet _ _ => s.params.role = .slave ∧ s.op = opHandle ∧ s.fvalid = true
  | .writeReply r =>
    s.params.role = .slave ∧ s.op = opHandle ∧ s.fvalid = true ∧ (r = .ok ∨ r = .notSupported) ∧ s.txLen ≠ 0#7

/-- The invariant of the block. -/
structure Inv (s : State) : Prop where
  /-- R6: the nine command codes are pairwise distinct. -/
  params_ok : s.params.Ok
  /-- R37: `IDX` is `0..26`. -/
  idx_le : s.idx ≤ payloadCap
  /-- R152: `TX_LEN` is 0 (reset) or the size of an encoded frame, `5..31`. -/
  txLen_range : s.txLen = 0#7 ∨ (overhead ≤ s.txLen.toNat ∧ s.txLen.toNat ≤ overhead + payloadCap)
  /-- R173, R177: `OUT_LEN` is `0..26`. -/
  outLen_le : s.outLen.toNat ≤ payloadCap
  /-- R38: `TSTATE` is `T_IDLE` exactly when no operation runs. -/
  busy_iff : s.busy = true ↔ s.tstate ≠ .idle
  /-- R35, R112: a decode is in progress exactly when the operation waits on a `POLL`. -/
  poll_iff : s.tstate = .poll ↔ s.dstate ≠ .idle
  /-- R22, R231: `BUSY` and `DONE` are never both 1. -/
  not_busy_done : ¬ (s.busy = true ∧ s.done = true)
  /-- R30, R111: no frame is held while a decode is in progress. -/
  decoding_invalid : s.dstate ≠ .idle → s.fvalid = false
  /-- R171, R178: a master operation in progress has `n <= 26`. -/
  reqLen_le : s.tstate ≠ .idle → s.op = opRequestData ∨ s.op = opSendAction → s.reqLen.toNat ≤ payloadCap
  /-- R97, R171, R178, R191. -/
  position : s.positionFits
  /-- R116 to R120. -/
  decode_shape : s.decodeShape
  /-- R121: a held frame is complete. -/
  frame_held : s.fvalid = true → s.holdsFrame ∧ s.fCrcHi.isKnown = true ∧ s.fCrcLo.isKnown = true

/-- The port events a block of the role may make (R183, R202). -/
def PortEvent.admitted : Role → PortEvent → Bool
  | _, .poll _ => true
  | _, .noByte => true
  | _, .write _ _ => true
  | .master, .reserve _ _ => true
  | .slave, .reserve _ _ => false
  | .master, .appGet _ _ _ => false
  | .slave, .appGet _ _ _ => true
  | .master, .appSet _ _ _ => false
  | .slave, .appSet _ _ _ => true

/-- The number of `NOBYTE` events in a trace (R125, R130). -/
def noByteCount : List PortEvent → Nat
  | [] => 0
  | .noByte :: t => noByteCount t + 1
  | _ :: t => noByteCount t

/-- The state is idle and the outside world plans nothing: the block will run alone once an operation is started. -/
def State.ready (s : State) : Prop := s.busy = false ∧ s.host = []

/-- The bytes of a frame as the encoder lays them out (R80), for a payload of known bytes. -/
def wireFrame (p : Params) (cmd : Byte) (payload : List Byte) : List Byte :=
  let c := pCrc p.crc (lengthByte payload.length :: cmd :: payload)
  p.preamble :: lengthByte payload.length :: cmd :: (payload ++ [hiByte c, loByte c])

end Sys2Proof.Machine
end

