-- ==== Sys2Proof/Certificates/Slice0/Obligations.lean ====
section
/-! DEFINITION. The statements for the provers. Each docstring names the rules of spec/ it rests on. A record update `{ s with … }` names every
field an instruction or a step changes, so what is not named is its frame. -/

open Sys2Proof Sys2Proof.Machine

/-! ### Encoding -/

/-- R90 to R98, R210, R222: decoding the encoding of a well-formed instruction gives it back, every operand at every value. -/
def Obligations.DecodeOfEncodeIsInstruction : Prop :=
  ∀ (p : Params) (i : Instr), p.Ok → wellFormed p i = true → decode p (encode p i) = i

/-- R90, R99, R222: encoding what was decoded gives the `CTRL` word with its reserved bits 0, and the command byte itself. -/
def Obligations.EncodeOfDecodeIsCanonical : Prop :=
  ∀ (p : Params), (∀ w : Word, encode p (decode p (.ctrl w)) = .ctrl (w &&& 0x00FFFF07#32)) ∧
    (∀ b : Byte, encode p (decode p (.wire b)) = .wire b ∧ (p.Ok → wellFormed p (decode p (.wire b)) = true))

/-- R92 to R96, R98, R211, R216 and vectors V-X1 to V-X8: words written out from the spec's encodings. -/
def Obligations.SpecWordsDecode : Prop :=
  ∀ p : Params,
    decode p (.ctrl 0x00000001#32) = .decode 0 0 ∧ decode p (.ctrl 0x00000002#32) = .validate 0 0 ∧
    decode p (.ctrl 0x00010703#32) = .encode 0x07 1 ∧ decode p (.ctrl 0x00070304#32) = .requestData 0x03 7 ∧
    decode p (.ctrl 0x00010705#32) = .sendAction 0x07 1 ∧ decode p (.ctrl 0x00000006#32) = .handle 0 0 ∧
    decode p (.ctrl 0x00000000#32) = .illegalOp0 0 0 ∧ decode p (.ctrl 0x00000007#32) = .illegalOp7 0 0 ∧
    decode p (.ctrl 0xFF0000F9#32) = .decode 0 0 ∧
    decode p (.wire 0x03#8) = .ident ∧ decode p (.wire 0x07#8) = .setRelay

/-- R99: neither the reserved bits of a `CTRL` word nor, for the operations that do not list them, `CMD` and `LEN` change what the operation does:
at its start nor at any of its later steps. (`REQ_CMD` and `REQ_LEN` are latched all the same, by an illegal code and by HANDLE in a master too: the
model's reading, log entry 8. Nothing else differs.) -/
def Obligations.ReservedBitsChangeNothing : Prop :=
  (∀ (s : State) (rest : List HostAct) (w w' : Word), w &&& 0x00FFFF07#32 = w' &&& 0x00FFFF07#32 →
    step { s with host := .wr 0#8 w :: rest } = step { s with host := .wr 0#8 w' :: rest }) ∧
  (∀ (s t : State) (c l c' l' : Byte) (i : Byte → Byte → Instr),
    i ∈ [Instr.decode, Instr.validate, Instr.handle, Instr.illegalOp0, Instr.illegalOp7] →
    exec (i c l) s = .next t → exec (i c' l') s = .next { t with reqCmd := c', reqLen := l' }) ∧
  (∀ (s t : State) (c' l' : Byte), s.op = opDecode ∨ s.op = opHandle →
    blockStep s = .next t → blockStep { s with reqCmd := c', reqLen := l' } = .next { t with reqCmd := c', reqLen := l' })

/-- R210, R220: `P_CMD_TABLE` gives each named command its class and length, and every other code UNSUPPORTED. -/
def Obligations.CommandTableEntries : Prop :=
  ∀ p : Params, p.Ok →
    cmdTable p 0x03#8 = .read 7 ∧
    cmdTable p p.cmdSetShutterAction = .write p.lenSetShutterAction ∧
    (p.classGetShutterAction = .read → cmdTable p p.cmdGetShutterAction = .read p.lenGetShutterAction) ∧
    (p.classGetShutterAction = .unsupported → cmdTable p p.cmdGetShutterAction = .unsupported) ∧
    cmdTable p p.cmdSetShutterPosition = .write p.lenSetShutterPosition ∧
    cmdTable p p.cmdGetShutterPosition = .read p.lenGetShutterPosition ∧
    cmdTable p 0x07#8 = .write 1 ∧
    cmdTable p p.cmdGetRelay = .read p.lenGetRelay ∧
    cmdTable p p.cmdSetBuzzer = .write p.lenSetBuzzer ∧
    cmdTable p p.cmdGetButton = .read p.lenGetButton ∧
    (∀ c, c ∉ p.codes → cmdTable p c = .unsupported)

/-! ### Who moves, and what runs an instruction -/

/-- R46, R249, R250: when the host does nothing more, or gives the block its turn, the block takes its own step; an idle block does nothing.
(The host's plan is the model's own field, log entry 5.) -/
def Obligations.TurnsOfHostAndBlock : Prop :=
  ∀ (s : State) (rest : List HostAct),
    (s.busy = true → step { s with host := [] } = blockStep { s with host := [] }) ∧
    (s.busy = true → step { s with host := .block :: rest } = blockStep { s with host := rest }) ∧
    (s.busy = false → step { s with host := [] } = .next { s with host := [] }) ∧
    (s.busy = false → step { s with host := .block :: rest } = .next { s with host := rest })

/-- R22: a `CTRL` write with `BUSY = 0` runs the instruction its word encodes, in the step of the write. -/
def Obligations.StepRunsCtrlWrite : Prop :=
  ∀ (s : State) (w : Word) (rest : List HostAct), s.busy = false → s.host = .wr 0#8 w :: rest →
    step s = exec (decode s.params (.ctrl w)) { s with host := rest }

/-- R191, R147, R193: in HANDLE, the `POLL` that brings the last checksum byte ends the decode; a checksum that does not match ends the operation
with no reply, and one that matches runs the command that `F_CMD` encodes. (That both happen in the step of that `POLL` is the model's reading of R46,
log entry 7.) -/
def Obligations.StepRunsWireCommand : Prop :=
  ∀ (s s1 : State) (b c : Byte) (t : List (Option Byte)), s.tstate = .poll → s.dstate = .readChecksumLo → s.op = opHandle → s.ticks ≠ 0#32 →
    s.rx = some b :: t → s.fCmd = .known c →
    s1 = { s with rx := t, draws := s.draws + 1, trace := .poll (some b) :: s.trace, fCrcLo := .known b, fvalid := true, dstate := .idle } →
    blockStep s =
      if s1.crcOk = true then exec (decode s.params (.wire c)) { s1 with draws := s1.draws + 1 }
      else .next { s1 with draws := s1.draws + 1, fvalid := false, busy := false, done := true, result := .malformed, tstate := .idle }

/-- R191, R210: the command that `F_CMD` encodes is dispatched as `P_CMD_TABLE` says: READ calls the getter next, WRITE the setter, and a code
that is UNSUPPORTED takes the path of the UNSUPPORTED row. -/
def Obligations.DispatchFollowsCommandTable : Prop :=
  ∀ (s : State) (c : Byte),
    match cmdTable s.params c with
    | .read m => exec (decode s.params (.wire c)) s = .next { s with tstate := .appGet c m }
    | .write m => exec (decode s.params (.wire c)) s = .next { s with tstate := .appSet c m }
    | .unsupported => exec (decode s.params (.wire c)) s = exec (.unsupported c) s

/-- R45: an answer that the outside world has not planned is some answer it could have planned. (The plans are
the model's own fields, log entry 5.) -/
def Obligations.UnplannedAnswerIsSomeAnswer : Prop :=
  ∀ s : State,
    (s.rx = [] → s.tstate = .poll → s.dstate ≠ .idle → ¬ (s.dstate = .readPayload ∧ s.idx = payloadCap) → s.ticks ≠ 0#32 →
      ∃ a, blockStep s = blockStep { s with rx := [a] }) ∧
    (s.acks = [] → s.tstate = .writeRequest ∨ s.tstate = .reserve ∨ (∃ r, s.tstate = .writeReply r) →
      ∃ a, blockStep s = blockStep { s with acks := [a] }) ∧
    (∀ c m, s.tstate = .appGet c m → s.app.length < m.val →
      ∃ more : List Byte, s.app.length + more.length = m.val ∧ blockStep s = blockStep { s with app := s.app ++ more }) ∧
    (∀ c m, s.tstate = .appSet c m → s.app = [] → ∃ b, blockStep s = blockStep { s with app := [b] })

/-! ### The host's registers -/

/-- R43, R44, R22: what a host write to a register other than `CTRL` does: `TIMEOUT` and `ARG` take a value, a write to any other number has no effect.
While `BUSY = 1` every write, to `CTRL` too, is lost. An access to an
8-bit register carries a byte (R61). -/
def Obligations.HostWriteEffects : Prop :=
  ∀ (s : State) (n : Byte) (v : Word) (rest : List HostAct), s.host = .wr n v :: rest →
    (s.busy = true → step s = .next { s with host := rest }) ∧
    (s.busy = false → n = 0x02#8 → step s = .next { s with host := rest, timeout := v }) ∧
    (∀ b : Byte, s.busy = false → 0x20 ≤ n.toNat → n.toNat ≤ 0x39 → v = b.setWidth 32 →
      ∃ arg', step s = .next { s with host := rest, arg := arg' } ∧ readCell arg' (n.toNat - 0x20) = .known b ∧
        ∀ i, i ≠ n.toNat - 0x20 → readCell arg' i = readCell s.arg i) ∧
    (s.busy = false → n ≠ 0x00#8 → n ≠ 0x02#8 → ¬ (0x20 ≤ n.toNat ∧ n.toNat ≤ 0x39) → step s = .next { s with host := rest })

/-- R65, R23: a host read of any register changes nothing of the block; its value is added to the host's record. -/
def Obligations.HostReadsHaveNoEffect : Prop :=
  ∀ (s : State) (n : Byte) (rest : List HostAct), s.host = .rd n :: rest →
    step s = .next { s with host := rest, draws := s.draws + 1, reads := (n, s.hostReadValue n) :: s.reads }

/-- R23, R230, R34, R21: what reads alike whether or not an operation runs: the fields of `STATUS`, its
result codes 0 to 11 among them, the hardwired `CONFIG`, and 0 for every number the map
does not list (while `BUSY = 1` too: the model's reading of R42, log entry 9). -/
def Obligations.ReadsThatNeverDependOnBusy : Prop :=
  ∀ s : State,
    (s.hostReadValue 0x01#8).extractLsb' 0 1 = BitVec.ofBool s.busy ∧
    (s.hostReadValue 0x01#8).extractLsb' 1 1 = BitVec.ofBool s.done ∧
    (s.hostReadValue 0x01#8).extractLsb' 2 1 = BitVec.ofBool s.fvalid ∧
    ((s.hostReadValue 0x01#8).extractLsb' 3 1 = 1#1 ↔ s.params.role = .slave) ∧
    (s.hostReadValue 0x01#8).extractLsb' 4 4 = s.result.code ∧
    (∀ p ∈ [(ResultCode.ok, 0#4), (.timeout, 1#4), (.overflow, 2#4), (.malformed, 3#4), (.notSupported, 4#4), (.invalidAnswer, 5#4),
        (.txFailed, 6#4), (.requestFailed, 7#4), (.encodeTooLong, 8#4), (.argError, 9#4), (.roleError, 10#4), (.illegalOp, 11#4)],
      s.result = p.1 → (s.hostReadValue 0x01#8).extractLsb' 4 4 = p.2) ∧
    (s.hostReadValue 0x01#8).extractLsb' 8 24 = 0#24 ∧
    (s.hostReadValue 0x03#8).extractLsb' 0 8 = 0x1A#8 ∧
    (s.hostReadValue 0x03#8).extractLsb' 8 8 = 0x40#8 ∧
    (s.hostReadValue 0x03#8).extractLsb' 16 1 = (s.hostReadValue 0x01#8).extractLsb' 3 1 ∧
    (s.hostReadValue 0x03#8).extractLsb' 17 15 = 0#15 ∧
    (∀ n : Byte, 6 ≤ n.toNat → ¬ (0x20 ≤ n.toNat ∧ n.toNat ≤ 0x39) → ¬ (0x40 ≤ n.toNat ∧ n.toNat ≤ 0x59) →
      ¬ (0x60 ≤ n.toNat ∧ n.toNat ≤ 0x79) → ¬ (0x80 ≤ n.toNat ∧ n.toNat ≤ 0xBF) → s.hostReadValue n = 0#32)

/-- R21, R22, R24, R30, R31, R32, R33, R63: what the other registers read as while `BUSY = 0`, where their elements hold values. -/
def Obligations.IdleReadsGiveRegisters : Prop :=
  ∀ s : State, s.busy = false →
    s.hostReadValue 0x00#8 = 0#32 ∧
    s.hostReadValue 0x02#8 = s.timeout ∧
    (∀ l c hi lo : Byte, s.fvalid = true → s.fLen = .known l → s.fCmd = .known c → s.fCrcHi = .known hi → s.fCrcLo = .known lo →
      s.hostReadValue 0x04#8 = hi ++ lo ++ c ++ l) ∧
    (∀ a : Byte, s.appStatus = .known a → s.hostReadValue 0x05#8 = 0#8 ++ s.txLen.setWidth 8 ++ s.outLen ++ a) ∧
    (∀ (i : Nat) (b : Byte), i < 26 → readCell s.arg i = .known b → s.hostReadValue (BitVec.ofNat 8 (0x20 + i)) = b.setWidth 32) ∧
    (∀ (i : Nat) (b : Byte), i < 26 → s.fvalid = true → readCell s.fPay i = .known b →
      s.hostReadValue (BitVec.ofNat 8 (0x40 + i)) = b.setWidth 32) ∧
    (∀ (i : Nat) (b : Byte), i < 26 → readCell s.out i = .known b → s.hostReadValue (BitVec.ofNat 8 (0x60 + i)) = b.setWidth 32) ∧
    (∀ (i : Nat) (b : Byte), i < 64 → readCell s.txb i = .known b → s.hostReadValue (BitVec.ofNat 8 (0x80 + i)) = b.setWidth 32)

/-- R42, R268, R30: a read while `BUSY = 1` (of any register but `STATUS` and `CONFIG`), and a read of a frame register while `FVALID = 0`,
tells nothing of the block: two states in which the coming draw is the same give the same value. -/
def Obligations.HiddenRegistersTellNothing : Prop :=
  ∀ (s s' : State) (n : Byte), s.draws = s'.draws →
    (s.busy = true → s'.busy = true → n ≠ 0x01#8 → n ≠ 0x03#8 → s.hostReadValue n = s'.hostReadValue n) ∧
    (s.busy = false → s'.busy = false → s.fvalid = false → s'.fvalid = false → n = 0x04#8 ∨ (0x40 ≤ n.toNat ∧ n.toNat ≤ 0x59) →
      s.hostReadValue n = s'.hostReadValue n)

/-! ### Reset -/

/-- R41, R260: reset gives every state element its value of R41, performs no port event, and leaves the build. The hidden registers
`TICKS`, `IDX`, `OP`, `REQ_CMD` and `REQ_LEN`, UNSPEC after reset, are not mentioned. -/
def Obligations.ResetGivesResetValues : Prop :=
  ∀ (s : State) (rest : List HostAct), s.host = .reset :: rest →
    ∃ t, step s = .next t ∧ t.params = s.params ∧ t.trace = s.trace ∧ t.busy = false ∧ t.done = false ∧ t.fvalid = false ∧ t.result = .ok ∧
      t.timeout = 0#32 ∧ (∀ i, readCell t.arg i = .unspec) ∧ t.fLen = .unspec ∧ t.fCmd = .unspec ∧ t.fCrcHi = .unspec ∧ t.fCrcLo = .unspec ∧
      (∀ i, readCell t.fPay i = .unspec) ∧ (∀ i, readCell t.out i = .unspec) ∧ t.outLen = 0#8 ∧ t.appStatus = .unspec ∧
      (∀ i, readCell t.txb i = .unspec) ∧ t.txLen = 0#7 ∧ t.dstate = .idle ∧ t.tstate = .idle ∧ t.host = rest ∧ t.rx = s.rx ∧
      t.acks = s.acks ∧ t.app = s.app ∧ t.reads = s.reads

/-- R41, R262: the state right after reset reads `STATUS` with every field but the role 0, and a DECODE started in it finishes TIMEOUT with no
`POLL` in its first step. -/
def Obligations.ResetStateIsIdle : Prop :=
  State.reset.busy = false ∧ State.reset.done = false ∧ State.reset.fvalid = false ∧ State.reset.result = .ok ∧ State.reset.timeout = 0#32 ∧
    State.reset.txLen = 0#7 ∧ State.reset.outLen = 0#8 ∧ State.reset.tstate = .idle ∧ State.reset.dstate = .idle ∧
    ∃ t u, exec (.decode 0 0) State.reset = .next t ∧ blockStep t = .next u ∧ u.result = .timeout ∧ u.trace = []

/-! ### Host operations: the step of the `CTRL` write -/

/-- R98: the two illegal codes start and finish at once with ILLEGAL_OP, no port event and no other state change than the start's own
(R22, R90: the operands are latched; the model's reading, log entry 8) and the end's own (R231). -/
def Obligations.IllegalCodesFinishAtOnce : Prop :=
  ∀ (s : State) (c l : Byte),
    exec (.illegalOp0 c l) s =
      .next { s with busy := false, done := true, result := .illegalOp, tstate := .idle, dstate := .idle, op := 0#3, reqCmd := c, reqLen := l } ∧
    exec (.illegalOp7 c l) s =
      .next { s with busy := false, done := true, result := .illegalOp, tstate := .idle, dstate := .idle, op := 7#3, reqCmd := c, reqLen := l }

/-- R124, R191, R111, R22: DECODE, and HANDLE in a slave, start with a fresh frame, `TICKS = TIMEOUT` and no frame held, and wait on their first poll. -/
def Obligations.DecodeAndHandleStartFresh : Prop :=
  ∀ (s : State) (c l : Byte),
    exec (.decode c l) s =
      .next { s with busy := true, done := false, op := 1#3, reqCmd := c, reqLen := l, tstate := .poll, ticks := s.timeout, idx := 0,
                     dstate := .seekLength, fvalid := false, fLen := .unspec, fCmd := .unspec, fCrcHi := .unspec, fCrcLo := .unspec,
                     fPay := Vector.replicate 26 .unspec } ∧
    (s.params.role = .slave → exec (.handle c l) s =
      .next { s with busy := true, done := false, op := 6#3, reqCmd := c, reqLen := l, tstate := .poll, ticks := s.timeout, idx := 0,
                     dstate := .seekLength, fvalid := false, fLen := .unspec, fCmd := .unspec, fCrcHi := .unspec, fCrcLo := .unspec,
                     fPay := Vector.replicate 26 .unspec })

/-- R144, R145, R140, R141, R146: VALIDATE of a held frame compares `P_CRC` over the first `F_LEN` bytes of `length ‖ command ‖ payload` with `F_CRC`;
with no frame held it finishes ARG_ERROR. It changes nothing but the flags. The held frame's elements are those a decode has written (R121). -/
def Obligations.ValidateComparesChecksum : Prop :=
  ∀ (s : State) (c l : Byte),
    (s.fvalid = false → exec (.validate c l) s =
      .next { s with busy := false, done := true, result := .argError, tstate := .idle, dstate := .idle, op := 2#3, reqCmd := c, reqLen := l }) ∧
    (∀ (len cmd hi lo : Byte) (bs : List Byte), s.fvalid = true → s.fLen = .known len → s.fCmd = .known cmd →
      s.fCrcHi = .known hi → s.fCrcLo = .known lo → bs.length = len.toNat - 2 → bs.length ≤ 26 →
      (∀ i (h : i < bs.length), readCell s.fPay i = .known bs[i]) →
      exec (.validate c l) s =
        .next { s with busy := false, done := true, tstate := .idle, dstate := .idle, op := 2#3, reqCmd := c, reqLen := l, draws := s.draws + 1,
                       result := if pCrc s.params.crc ((len :: cmd :: bs).take len.toNat) = hi ++ lo then .ok else .malformed })

/-- R148: if changing one payload byte, or the command byte, of the frame changes `P_CRC` (constraint (b) of R7, for that frame), then a frame that
VALIDATE finds intact is MALFORMED with that byte changed. -/
def Obligations.ValidateDetectsChangedByte : Prop :=
  ∀ (s : State) (c l : Byte) (len cmd hi lo b : Byte) (bs : List Byte), s.fvalid = true → s.fLen = .known len → s.fCmd = .known cmd →
    s.fCrcHi = .known hi → s.fCrcLo = .known lo → len.toNat = 2 + bs.length → bs.length ≤ 26 →
    (∀ j (h : j < bs.length), readCell s.fPay j = .known bs[j]) → (∃ t, exec (.validate c l) s = .next t ∧ t.result = .ok) →
    (∀ i, i < bs.length → pCrc s.params.crc (len :: cmd :: bs.set i b) ≠ pCrc s.params.crc (len :: cmd :: bs) →
      ∃ t, exec (.validate c l) { s with fPay := writeCell s.fPay i (.known b) } = .next t ∧ t.result = .malformed) ∧
    (pCrc s.params.crc (len :: b :: bs) ≠ pCrc s.params.crc (len :: cmd :: bs) →
      ∃ t, exec (.validate c l) { s with fCmd := .known b } = .next t ∧ t.result = .malformed)

/-- R156, R152, R153, R154, R155: ENCODE of `n <= 26` bytes builds the frame in `TXB[0..n+4]`: one preamble, the length, the command, the bytes of
`ARG` as they are, the checksum high byte first; the rest of `TXB` keeps its values. (`vals` is what the checksum's reading of `ARG` gives:
the byte an element holds; free where it holds none, log entry 12.) -/
def Obligations.EncodeBuildsFrame : Prop :=
  ∀ (s : State) (c l : Byte), l.toNat ≤ 26 →
    ∃ (txb' : Vector (Val 8) 64) (vals : List Byte),
      exec (.encode c l) s =
        .next { s with busy := false, done := true, result := .ok, tstate := .idle, dstate := .idle, op := 3#3, reqCmd := c, reqLen := l,
                       txb := txb', txLen := BitVec.ofNat 7 (l.toNat + 5), draws := s.draws + 1 } ∧
      vals.length = l.toNat ∧ (∀ i b, i < l.toNat → readCell s.arg i = .known b → vals[i]? = some b) ∧
      readCell txb' 0 = .known s.params.preamble ∧ readCell txb' 1 = .known (BitVec.ofNat 8 (2 + l.toNat)) ∧ readCell txb' 2 = .known c ∧
      (∀ i, i < l.toNat → readCell txb' (3 + i) = readCell s.arg i) ∧
      readCell txb' (3 + l.toNat) = .known ((pCrc s.params.crc (BitVec.ofNat 8 (2 + l.toNat) :: c :: vals)).extractLsb' 8 8) ∧
      readCell txb' (4 + l.toNat) = .known ((pCrc s.params.crc (BitVec.ofNat 8 (2 + l.toNat) :: c :: vals)).extractLsb' 0 8) ∧
      (∀ i, l.toNat + 5 ≤ i → readCell txb' i = readCell s.txb i)

/-- R151, R156, R182(a), R177(a): with `n > 26`, ENCODE and a master's SEND_ACTION finish ENCODE_TOO_LONG and a master's REQUEST_DATA finishes ARG_ERROR (the
spec's decision D12), with no event and nothing written: `TXB` and `TX_LEN` keep their values. -/
def Obligations.LongOperandsAreRefused : Prop :=
  ∀ (s : State) (c l : Byte), 26 < l.toNat →
    exec (.encode c l) s =
      .next { s with busy := false, done := true, result := .encodeTooLong, tstate := .idle, dstate := .idle, op := 3#3, reqCmd := c,
                     reqLen := l } ∧
    (s.params.role = .master → exec (.sendAction c l) s =
      .next { s with busy := false, done := true, result := .encodeTooLong, tstate := .idle, dstate := .idle, op := 5#3, reqCmd := c,
                     reqLen := l }) ∧
    (s.params.role = .master → exec (.requestData c l) s =
      .next { s with busy := false, done := true, result := .argError, tstate := .idle, dstate := .idle, op := 4#3, reqCmd := c, reqLen := l })

/-- R171, R177(f): a master's REQUEST_DATA with `n <= 26` builds the five-byte request frame and waits on its `WRITE`. -/
def Obligations.RequestDataBuildsRequest : Prop :=
  ∀ (s : State) (c l : Byte), s.params.role = .master → l.toNat ≤ 26 →
    ∃ txb' : Vector (Val 8) 64,
      exec (.requestData c l) s =
        .next { s with busy := true, done := false, tstate := .writeRequest, op := 4#3, reqCmd := c, reqLen := l, txb := txb', txLen := 5#7,
                       draws := s.draws + 1 } ∧
      readCell txb' 0 = .known s.params.preamble ∧ readCell txb' 1 = .known 0x02#8 ∧ readCell txb' 2 = .known c ∧
      readCell txb' 3 = .known ((pCrc s.params.crc [0x02#8, c]).extractLsb' 8 8) ∧
      readCell txb' 4 = .known ((pCrc s.params.crc [0x02#8, c]).extractLsb' 0 8) ∧
      (∀ i, 5 ≤ i → readCell txb' i = readCell s.txb i)

/-- R178, R180, R152: a master's SEND_ACTION of `n <= 26` bytes (0 included) builds the frame of `ARG[0..n-1]` and waits on its `WRITE`. -/
def Obligations.SendActionBuildsRequest : Prop :=
  ∀ (s : State) (c l : Byte), s.params.role = .master → l.toNat ≤ 26 →
    ∃ (txb' : Vector (Val 8) 64) (vals : List Byte),
      exec (.sendAction c l) s =
        .next { s with busy := true, done := false, tstate := .writeRequest, op := 5#3, reqCmd := c, reqLen := l, txb := txb',
                       txLen := BitVec.ofNat 7 (l.toNat + 5), draws := s.draws + 1 } ∧
      vals.length = l.toNat ∧ (∀ i b, i < l.toNat → readCell s.arg i = .known b → vals[i]? = some b) ∧
      readCell txb' 0 = .known s.params.preamble ∧ readCell txb' 1 = .known (BitVec.ofNat 8 (2 + l.toNat)) ∧ readCell txb' 2 = .known c ∧
      (∀ i, i < l.toNat → readCell txb' (3 + i) = readCell s.arg i) ∧
      readCell txb' (3 + l.toNat) = .known ((pCrc s.params.crc (BitVec.ofNat 8 (2 + l.toNat) :: c :: vals)).extractLsb' 8 8) ∧
      readCell txb' (4 + l.toNat) = .known ((pCrc s.params.crc (BitVec.ofNat 8 (2 + l.toNat) :: c :: vals)).extractLsb' 0 8) ∧
      (∀ i, l.toNat + 5 ≤ i → readCell txb' i = readCell s.txb i)

/-- R97, R170, R190, R234: an operation of the other role finishes ROLE_ERROR in the step of the `CTRL` write, whatever its arguments, with no port
event and no other state change than the start's (the operands are latched; the model's reading, log entry 8) and the end's own. -/
def Obligations.OtherRoleFinishesRoleError : Prop :=
  ∀ (s : State) (c l : Byte),
    (s.params.role = .slave → exec (.requestData c l) s =
      .next { s with busy := false, done := true, result := .roleError, tstate := .idle, dstate := .idle, op := 4#3, reqCmd := c, reqLen := l }) ∧
    (s.params.role = .slave → exec (.sendAction c l) s =
      .next { s with busy := false, done := true, result := .roleError, tstate := .idle, dstate := .idle, op := 5#3, reqCmd := c, reqLen := l }) ∧
    (s.params.role = .master → exec (.handle c l) s =
      .next { s with busy := false, done := true, result := .roleError, tstate := .idle, dstate := .idle, op := 6#3, reqCmd := c, reqLen := l })

/-! ### Wire commands: what the slave's dispatcher does -/

/-- R194, R211, R213, R215, R217, R219: a read command waits on one `APPGET` with its own code and length; nothing else changes. -/
def Obligations.ReadCommandsCallGetter : Prop :=
  ∀ s : State,
    exec .ident s = .next { s with tstate := .appGet 0x03#8 7 } ∧
    (s.params.classGetShutterAction = .read → exec .getShutterAction s =
      .next { s with tstate := .appGet s.params.cmdGetShutterAction s.params.lenGetShutterAction }) ∧
    exec .getShutterPosition s = .next { s with tstate := .appGet s.params.cmdGetShutterPosition s.params.lenGetShutterPosition } ∧
    exec .getRelay s = .next { s with tstate := .appGet s.params.cmdGetRelay s.params.lenGetRelay } ∧
    exec .getButton s = .next { s with tstate := .appGet s.params.cmdGetButton s.params.lenGetButton }

/-- R195, R212, R214, R216, R218: a write command waits on one `APPSET` with its own code and argument length; nothing else changes. -/
def Obligations.WriteCommandsCallSetter : Prop :=
  ∀ s : State,
    exec .setShutterAction s = .next { s with tstate := .appSet s.params.cmdSetShutterAction s.params.lenSetShutterAction } ∧
    exec .setShutterPosition s = .next { s with tstate := .appSet s.params.cmdSetShutterPosition s.params.lenSetShutterPosition } ∧
    exec .setRelay s = .next { s with tstate := .appSet 0x07#8 1 } ∧
    exec .setBuzzer s = .next { s with tstate := .appSet s.params.cmdSetBuzzer s.params.lenSetBuzzer }

/-- R196, R220, R213: an unrecognised command, and get-shutter-action in a block that does not serve it, sets `APP_STATUS` to
`P_STATUS_NOT_SUPPORTED`, builds the one-byte status frame with the request's command, and waits on its `WRITE`; no callback is called. -/
def Obligations.UnsupportedCommandsBuildStatusFrame : Prop :=
  ∀ (s : State) (i : Instr) (c : Byte),
    i = .unsupported c ∨ (i = .getShutterAction ∧ s.params.classGetShutterAction = .unsupported ∧ c = s.params.cmdGetShutterAction) →
    ∃ txb' : Vector (Val 8) 64,
      exec i s =
        .next { s with appStatus := .known s.params.statusNotSupported, tstate := .writeReply .notSupported, txb := txb', txLen := 6#7,
                       draws := s.draws + 1 } ∧
      readCell txb' 0 = .known s.params.preamble ∧ readCell txb' 1 = .known 0x03#8 ∧ readCell txb' 2 = .known c ∧
      readCell txb' 3 = .known s.params.statusNotSupported ∧
      readCell txb' 4 = .known ((pCrc s.params.crc [0x03#8, c, s.params.statusNotSupported]).extractLsb' 8 8) ∧
      readCell txb' 5 = .known ((pCrc s.params.crc [0x03#8, c, s.params.statusNotSupported]).extractLsb' 0 8) ∧
      (∀ i, 6 ≤ i → readCell txb' i = readCell s.txb i)

/-! ### The block's step -/

/-- R113: an overflow ends the decode before the tick check and with no `POLL`, for each of the four operations that decode.
(Which steps this falls in is the model's reading of R46, log entry 7.) -/
def Obligations.OverflowEndsDecode : Prop :=
  ∀ s : State, s.tstate = .poll → s.dstate = .readPayload → s.idx = 26 →
    s.op = opDecode ∨ s.op = opRequestData ∨ s.op = opSendAction ∨ s.op = opHandle →
    blockStep s =
      .next { s with busy := false, done := true, fvalid := false, result := .overflow, tstate := .idle, dstate := .idle }

/-- R114: with no ticks left the decode ends with TIMEOUT and no `POLL`, for each of the four operations that decode.
(Which steps this falls in is the model's reading of R46, log entry 7.) -/
def Obligations.NoTicksEndsDecode : Prop :=
  ∀ s : State, s.tstate = .poll → s.dstate ≠ .idle → ¬ (s.dstate = .readPayload ∧ s.idx = 26) → s.ticks = 0#32 →
    s.op = opDecode ∨ s.op = opRequestData ∨ s.op = opSendAction ∨ s.op = opHandle →
    blockStep s =
      .next { s with busy := false, done := true, fvalid := false, result := .timeout, tstate := .idle, dstate := .idle }

/-- R115: a `POLL` answered `none` costs one tick, never wrapping, and signals `NOBYTE` in the same step; nothing else changes. A `POLL` answered with a
byte consumes no tick. -/
def Obligations.FailedPollCostsOneTick : Prop :=
  ∀ s : State, s.tstate = .poll → s.dstate ≠ .idle → ¬ (s.dstate = .readPayload ∧ s.idx = 26) → s.ticks ≠ 0#32 →
    (∀ t : List (Option Byte), s.rx = none :: t →
      blockStep s =
        .next { s with rx := t, draws := s.draws + 1, ticks := s.ticks - 1#32, trace := .noByte :: .poll none :: s.trace }) ∧
    (s.ticks - 1#32).toNat + 1 = s.ticks.toNat ∧
    (∀ (b : Byte) (t : List (Option Byte)) (u : State), s.rx = some b :: t → blockStep s = .next u → u.ticks = s.ticks)

/-- R116, R87: in SEEK_LENGTH a preamble byte is discarded and any other byte is taken as the length. -/
def Obligations.SeekLengthTakesByte : Prop :=
  ∀ (s : State) (b : Byte) (t : List (Option Byte)), s.tstate = .poll → s.dstate = .seekLength → s.ticks ≠ 0#32 → s.rx = some b :: t →
    (b = s.params.preamble →
      blockStep s = .next { s with rx := t, draws := s.draws + 1, trace := .poll (some b) :: s.trace }) ∧
    (b ≠ s.params.preamble →
      blockStep s =
        .next { s with rx := t, draws := s.draws + 1, trace := .poll (some b) :: s.trace, fLen := .known b, dstate := .readCommand })

/-- R117, R127: in READ_COMMAND the byte is the command; payload is collected only for a length above 2. -/
def Obligations.ReadCommandTakesByte : Prop :=
  ∀ (s : State) (b l : Byte) (t : List (Option Byte)), s.tstate = .poll → s.dstate = .readCommand → s.ticks ≠ 0#32 →
    s.rx = some b :: t → s.fLen = .known l →
    (2 < l.toNat → ∃ k, blockStep s =
      .next { s with rx := t, draws := k, trace := .poll (some b) :: s.trace, fCmd := .known b, dstate := .readPayload }) ∧
    (l.toNat ≤ 2 → ∃ k, blockStep s =
      .next { s with rx := t, draws := k, trace := .poll (some b) :: s.trace, fCmd := .known b, dstate := .readChecksumHi })

/-- R118: in READ_PAYLOAD the byte is stored at `IDX`, and the last payload byte due leads to the checksum. -/
def Obligations.ReadPayloadTakesByte : Prop :=
  ∀ (s : State) (b l : Byte) (t : List (Option Byte)), s.tstate = .poll → s.dstate = .readPayload → s.idx < 26 → s.ticks ≠ 0#32 →
    s.rx = some b :: t → s.fLen = .known l →
    ∃ k fPay', readCell fPay' s.idx = .known b ∧ (∀ i, i ≠ s.idx → readCell fPay' i = readCell s.fPay i) ∧
      blockStep s =
        .next { s with rx := t, draws := k, trace := .poll (some b) :: s.trace, fPay := fPay', idx := s.idx + 1,
                       dstate := if s.idx + 1 + 2 = l.toNat then .readChecksumHi else .readPayload }

/-- R119, R120, R121, R122, R124: the checksum's high byte is taken; its low byte ends a DECODE with OK, the frame held, its checksum not verified. -/
def Obligations.ChecksumBytesEndDecode : Prop :=
  ∀ (s : State) (b : Byte) (t : List (Option Byte)), s.tstate = .poll → s.ticks ≠ 0#32 → s.rx = some b :: t →
    (s.dstate = .readChecksumHi → blockStep s =
      .next { s with rx := t, draws := s.draws + 1, trace := .poll (some b) :: s.trace, fCrcHi := .known b, dstate := .readChecksumLo }) ∧
    (s.dstate = .readChecksumLo → s.op = opDecode → blockStep s =
      .next { s with rx := t, draws := s.draws + 1, trace := .poll (some b) :: s.trace, fCrcLo := .known b, fvalid := true, busy := false,
                     done := true, result := .ok, tstate := .idle, dstate := .idle })

/-- R171, R178, R183: the `WRITE` of a master's request carries `TXB[0..TX_LEN-1]`; `fail` ends the operation with TX_FAILED, `ok` leads to the
`RESERVE`. (`bs[i]` is the byte `TXB[i]` holds, a free one where it holds none.)
(Which steps this falls in is the model's reading of R46, log entry 7.) -/
def Obligations.RequestWriteStep : Prop :=
  ∀ (s : State) (a : Ack) (t : List Ack), s.tstate = .writeRequest → s.acks = a :: t → s.txLen.toNat ≤ 64 →
    ∃ bs : List Byte, bs.length = s.txLen.toNat ∧ (∀ i b, i < s.txLen.toNat → readCell s.txb i = .known b → bs[i]? = some b) ∧
    (a = .ok → blockStep s =
      .next { s with acks := t, draws := s.draws + 1, trace := .write bs .ok :: s.trace, tstate := .reserve }) ∧
    (a = .fail → blockStep s =
      .next { s with acks := t, draws := s.draws + 1, trace := .write bs .fail :: s.trace, busy := false, done := true, result := .txFailed,
                     tstate := .idle, dstate := .idle })

/-- R172, R171, R178: the `RESERVE` announces `n + P_RESERVE_OVERHEAD` for REQUEST_DATA and `1 + P_RESERVE_OVERHEAD` for SEND_ACTION; `fail` ends the
operation with REQUEST_FAILED, `ok` starts the decode of the reply.
(Which steps this falls in is the model's reading of R46, log entry 7.) -/
def Obligations.ReserveStep : Prop :=
  ∀ (s : State) (a : Ack) (t : List Ack) (n : Byte), s.tstate = .reserve → s.acks = a :: t →
    (s.op = opRequestData ∧ s.reqLen.toNat ≤ 26 ∧ n.toNat = s.reqLen.toNat + s.params.reserveOverhead.val) ∨
      (s.op = opSendAction ∧ n.toNat = 1 + s.params.reserveOverhead.val) →
    (a = .ok → blockStep s =
      .next { s with acks := t, draws := s.draws + 1, trace := .reserve n .ok :: s.trace, tstate := .poll, ticks := s.timeout, idx := 0,
                     dstate := .seekLength, fvalid := false, fLen := .unspec, fCmd := .unspec, fCrcHi := .unspec, fCrcLo := .unspec,
                     fPay := Vector.replicate 26 .unspec }) ∧
    (a = .fail → blockStep s =
      .next { s with acks := t, draws := s.draws + 1, trace := .reserve n .fail :: s.trace, busy := false, done := true,
                     result := .requestFailed, tstate := .idle, dstate := .idle })

/-- R175, R173, R174, R181, R171: the end of REQUEST_DATA's decode. A checksum that does not match is MALFORMED, then a command that does not echo the
request's is INVALID_ANSWER, both with the frame discarded and `OUT` unchanged; otherwise exactly `n` elements are copied, whatever
the reply's length, and `OUT_LEN` is `n`.
(Which steps this falls in is the model's reading of R46, log entry 7.) -/
def Obligations.RequestDataReply : Prop :=
  ∀ (s : State) (b len cmd hi : Byte) (bs : List Byte) (t : List (Option Byte)), s.tstate = .poll → s.dstate = .readChecksumLo →
    s.ticks ≠ 0#32 → s.rx = some b :: t → s.op = opRequestData → s.reqLen.toNat ≤ 26 → s.fLen = .known len → s.fCmd = .known cmd →
    s.fCrcHi = .known hi → bs.length = len.toNat - 2 → bs.length ≤ 26 → (∀ i (h : i < bs.length), readCell s.fPay i = .known bs[i]) →
    (pCrc s.params.crc ((len :: cmd :: bs).take len.toNat) ≠ hi ++ b → blockStep s =
      .next { s with rx := t, draws := s.draws + 2, trace := .poll (some b) :: s.trace, fCrcLo := .known b, fvalid := false, busy := false,
                     done := true, result := .malformed, tstate := .idle, dstate := .idle }) ∧
    (pCrc s.params.crc ((len :: cmd :: bs).take len.toNat) = hi ++ b → cmd ≠ s.reqCmd → blockStep s =
      .next { s with rx := t, draws := s.draws + 2, trace := .poll (some b) :: s.trace, fCrcLo := .known b, fvalid := false, busy := false,
                     done := true, result := .invalidAnswer, tstate := .idle, dstate := .idle }) ∧
    (pCrc s.params.crc ((len :: cmd :: bs).take len.toNat) = hi ++ b → cmd = s.reqCmd →
      ∃ out', (∀ i, i < s.reqLen.toNat → readCell out' i = readCell s.fPay i) ∧
        (∀ i, s.reqLen.toNat ≤ i → readCell out' i = readCell s.out i) ∧
        blockStep s =
          .next { s with rx := t, draws := s.draws + 2, trace := .poll (some b) :: s.trace, fCrcLo := .known b, fvalid := true, busy := false,
                         done := true, result := .ok, tstate := .idle, dstate := .idle, out := out', outLen := s.reqLen })

/-- R175, R179, R174, R181, R178: the end of SEND_ACTION's decode: the same checks, then `APP_STATUS <- F_PAY[0]`, whatever the reply's length.
(Which steps this falls in is the model's reading of R46, log entry 7.) -/
def Obligations.SendActionReply : Prop :=
  ∀ (s : State) (b len cmd hi : Byte) (bs : List Byte) (t : List (Option Byte)), s.tstate = .poll → s.dstate = .readChecksumLo →
    s.ticks ≠ 0#32 → s.rx = some b :: t → s.op = opSendAction → s.fLen = .known len → s.fCmd = .known cmd →
    s.fCrcHi = .known hi → bs.length = len.toNat - 2 → bs.length ≤ 26 → (∀ i (h : i < bs.length), readCell s.fPay i = .known bs[i]) →
    (pCrc s.params.crc ((len :: cmd :: bs).take len.toNat) ≠ hi ++ b → blockStep s =
      .next { s with rx := t, draws := s.draws + 2, trace := .poll (some b) :: s.trace, fCrcLo := .known b, fvalid := false, busy := false,
                     done := true, result := .malformed, tstate := .idle, dstate := .idle }) ∧
    (pCrc s.params.crc ((len :: cmd :: bs).take len.toNat) = hi ++ b → cmd ≠ s.reqCmd → blockStep s =
      .next { s with rx := t, draws := s.draws + 2, trace := .poll (some b) :: s.trace, fCrcLo := .known b, fvalid := false, busy := false,
                     done := true, result := .invalidAnswer, tstate := .idle, dstate := .idle }) ∧
    (pCrc s.params.crc ((len :: cmd :: bs).take len.toNat) = hi ++ b → cmd = s.reqCmd → blockStep s =
      .next { s with rx := t, draws := s.draws + 2, trace := .poll (some b) :: s.trace, fCrcLo := .known b, fvalid := true, busy := false,
                     done := true, result := .ok, tstate := .idle, dstate := .idle, appStatus := readCell s.fPay 0 })

/-- R194, R198: `APPGET(cmd, m)` is answered by `m` bytes, and the reply frame carries them under the request's command.
(Which steps this falls in is the model's reading of R46, log entry 7.) -/
def Obligations.GetterAnswerIsReply : Prop :=
  ∀ (s : State) (cmd : Byte) (m : PayloadLen) (bs rest : List Byte), s.tstate = .appGet cmd m → s.app = bs ++ rest → bs.length = m.val →
    ∃ t, blockStep s = .next t ∧
      t = { s with app := rest, draws := s.draws + 2, trace := .appGet cmd m.val bs :: s.trace, tstate := .writeReply .ok,
                   txLen := BitVec.ofNat 7 (m.val + 5), txb := t.txb } ∧
      t.txFrame = wireFrame s.params cmd bs ∧ (∀ i, m.val + 5 ≤ i → readCell t.txb i = readCell s.txb i)

/-- R195, R197, R199, R198: `APPSET(cmd, a)` carries the first `m` payload elements whatever `F_LEN` is (a free byte where one is UNSPEC); its result
byte, whatever it is, becomes `APP_STATUS` and the one payload byte of the reply.
(Which steps this falls in is the model's reading of R46, log entry 7.) -/
def Obligations.SetterResultIsReply : Prop :=
  ∀ (s : State) (cmd st : Byte) (m : PayloadLen) (rest : List Byte), s.tstate = .appSet cmd m → s.app = st :: rest →
    ∃ (t : State) (args : List Byte), blockStep s = .next t ∧ args.length = m.val ∧
      (∀ i b, i < m.val → readCell s.fPay i = .known b → args[i]? = some b) ∧
      t = { s with app := rest, draws := s.draws + 2, trace := .appSet cmd args st :: s.trace, tstate := .writeReply .ok,
                   appStatus := .known st, txLen := 6#7, txb := t.txb } ∧
      t.txFrame = wireFrame s.params cmd [st] ∧ (∀ i, 6 ≤ i → readCell t.txb i = readCell s.txb i)

/-- R191, R200: the `WRITE` of a reply ends HANDLE: TX_FAILED if it is answered `fail`, else the result the dispatch chose.
(Which steps this falls in is the model's reading of R46, log entry 7.) -/
def Obligations.ReplyWriteEndsHandle : Prop :=
  ∀ (s : State) (a : Ack) (t : List Ack) (r : ResultCode), s.tstate = .writeReply r → s.acks = a :: t → s.txLen.toNat ≤ 64 →
    ∃ bs : List Byte, bs.length = s.txLen.toNat ∧ (∀ i b, i < s.txLen.toNat → readCell s.txb i = .known b → bs[i]? = some b) ∧
    blockStep s =
      .next { s with acks := t, draws := s.draws + 1, trace := .write bs a :: s.trace, busy := false, done := true, tstate := .idle,
                     dstate := .idle, result := if a = .ok then r else .txFailed }

/-! ### Whole-machine rules -/

/-- The invariant of `Sys2Proof.Safety` is kept by every step of the machine, whatever the host, the transport and the application do. -/
def Obligations.EveryStepKeepsInvariant : Prop :=
  ∀ s t : State, Inv s → step s = .next t → Inv t

/-- The state right after reset meets the invariant. -/
def Obligations.ResetMeetsInvariant : Prop := Inv State.reset

/-- R230, R232, R236: no rule stops the block; from every state that meets the invariant the machine takes a step. -/
def Obligations.NoStepStops : Prop :=
  ∀ s : State, Inv s → ∃ t, step s = .next t

/-- R20, R240: the parameters, the role among them, are fixed for the life of the block. -/
def Obligations.ParametersNeverChange : Prop :=
  ∀ s t : State, step s = .next t → t.params = s.params

/-- R46, R183, R202: a step makes no port event, or one, or a failed `POLL` with its `NOBYTE`; and only events the role admits: a master never calls the
application, a slave never reserves. -/
def Obligations.OneAdmittedEventPerStep : Prop :=
  ∀ s t : State, Inv s → step s = .next t →
    ∃ new : List PortEvent, t.trace = new ++ s.trace ∧
      (new = [] ∨ new = [.noByte, .poll none] ∨ ∃ e, new = [e] ∧ e ≠ .noByte ∧ e ≠ .poll none) ∧
      ∀ e ∈ new, e.admitted s.params.role = true

/-- R231, R39: an operation ends only by `finish` or by reset: a step after which `BUSY` is 0 and before which it was 1 leaves `DONE = 1`, `T_IDLE` and
`D_IDLE`, or is a reset. -/
def Obligations.OperationsEndByFinish : Prop :=
  ∀ s t : State, Inv s → step s = .next t → s.busy = true → t.busy = false →
    (t.done = true ∧ t.tstate = .idle ∧ t.dstate = .idle) ∨ ∃ rest, s.host = .reset :: rest

/-- R31, R174: `OUT` and `OUT_LEN` change only in the step in which a REQUEST_DATA finishes with OK, and on reset.
(Which steps this falls in is the model's reading of R46, log entry 7.) -/
def Obligations.OutChangesOnlyOnOkRequestData : Prop :=
  ∀ s t : State, step s = .next t → (t.out ≠ s.out ∨ t.outLen ≠ s.outLen) → (∀ rest, s.host ≠ .reset :: rest) →
    s.busy = true ∧ s.op = opRequestData ∧ s.dstate = .readChecksumLo ∧ t.busy = false ∧ t.done = true ∧ t.result = .ok ∧ t.outLen = s.reqLen

/-- R30, R120: `FVALID` rises only in the step in which a decode receives its last checksum byte. -/
def Obligations.FrameBecomesValidOnlyAtDecodeEnd : Prop :=
  ∀ s t : State, step s = .next t → s.fvalid = false → t.fvalid = true →
    s.busy = true ∧ s.tstate = .poll ∧ s.dstate = .readChecksumLo ∧ ∃ b rest, t.fCrcLo = .known b ∧ t.trace = .poll (some b) :: rest

/-! ### Whole operations -/

/-- R125, R114, R115: a decode whose polls all fail ends with TIMEOUT after exactly as many failed polls as it has ticks, each with its `NOBYTE`, and
makes no other event.
(Which steps this falls in is the model's reading of R46, log entry 7.) -/
def Obligations.TimeoutAfterExactlyTheBudget : Prop :=
  ∀ (s : State) (rest : List (Option Byte)), s.busy = true → s.host = [] → s.tstate = .poll → s.dstate ≠ .idle →
    ¬ (s.dstate = .readPayload ∧ s.idx = 26) →
    s.op = opDecode ∨ s.op = opRequestData ∨ s.op = opSendAction ∨ s.op = opHandle →
    s.rx = List.replicate s.ticks.toNat none ++ rest →
    ∃ t, Sys2Proof.core.run (s.ticks.toNat + 1) s = .next t ∧ t.busy = false ∧ t.done = true ∧ t.result = .timeout ∧ t.fvalid = false ∧
      t.rx = rest ∧ t.trace = (List.replicate s.ticks.toNat [PortEvent.noByte, PortEvent.poll none]).flatten ++ s.trace

/-- R265, R131: a decode fed preamble bytes goes on for ever: after any number of them it is where it was, with no tick consumed. -/
def Obligations.PreambleFloodNeverEnds : Prop :=
  ∀ (s : State) (n : Nat) (rest : List (Option Byte)), s.busy = true → s.host = [] → s.tstate = .poll → s.dstate = .seekLength →
    s.ticks ≠ 0#32 → s.rx = List.replicate n (some s.params.preamble) ++ rest →
    Sys2Proof.core.run n s =
      .next { s with rx := rest, draws := s.draws + n, trace := List.replicate n (.poll (some s.params.preamble)) ++ s.trace }

/-- R128, R113, R130: an oversized frame: the length, the command and exactly 26 payload bytes are taken, and the next step ends the decode with
OVERFLOW; the rest of the frame stays in the transport.
(Which steps this falls in is the model's reading of R46, log entry 7.) -/
def Obligations.OversizedFrameOverflows : Prop :=
  ∀ (s : State) (l c : Byte) (bs : List Byte) (rest : List (Option Byte)), s.busy = true → s.host = [] → s.tstate = .poll →
    s.dstate = .seekLength → s.idx = 0 → s.op = opDecode ∨ s.op = opRequestData ∨ s.op = opSendAction ∨ s.op = opHandle → s.ticks ≠ 0#32 →
    29 ≤ l.toNat → l ≠ s.params.preamble → bs.length = 26 → s.rx = some l :: some c :: (bs.map some ++ rest) →
    ∃ t, Sys2Proof.core.run 29 s = .next t ∧ t.busy = false ∧ t.result = .overflow ∧ t.fvalid = false ∧ t.rx = rest ∧ t.ticks = s.ticks ∧
      t.trace = (bs.reverse.map fun b => PortEvent.poll (some b)) ++ .poll (some c) :: .poll (some l) :: s.trace

/-- R111, R116 to R121, R130, R140, R152: round trip, as R159 infers it from these rules. A decode fed the bytes `TXB[0 .. TX_LEN-1]` that an ENCODE of `c` and `bs` left, preceded by any number of preamble
bytes, with fewer failed polls than ticks anywhere among them, ends OK with exactly that frame held and its checksum right, and makes no event but its polls
and their `NOBYTE`s. -/
def Obligations.EncodedFrameDecodes : Prop :=
  ∀ (e e' s : State) (k : Nat) (c : Byte) (bs : List Byte) (answers rest : List (Option Byte)),
    bs.length ≤ 26 → (∀ i (h : i < bs.length), readCell e.arg i = .known bs[i]) → exec (.encode c (BitVec.ofNat 8 bs.length)) e = .next e' →
    s.params = e.params → s.params.PreambleFree → s.busy = true → s.host = [] → s.tstate = .poll → s.dstate = .seekLength → s.idx = 0 →
    s.op = opDecode → answers.filterMap id = List.replicate k s.params.preamble ++ e'.txFrame → answers.count none < s.ticks.toNat →
    answers.getLast? ≠ some none → s.rx = answers ++ rest →
    e'.result = .ok ∧
    ∃ t, Sys2Proof.core.run answers.length s = .next t ∧ t.busy = false ∧ t.done = true ∧ t.result = .ok ∧ t.fvalid = true ∧
      t.fLen = .known (BitVec.ofNat 8 (2 + bs.length)) ∧ t.fCmd = .known c ∧ (∀ i (h : i < bs.length), readCell t.fPay i = .known bs[i]) ∧
      (∀ i, bs.length ≤ i → readCell t.fPay i = readCell s.fPay i) ∧
      t.fCrcHi = .known (hiByte (pCrc s.params.crc (BitVec.ofNat 8 (2 + bs.length) :: c :: bs))) ∧
      t.fCrcLo = .known (loByte (pCrc s.params.crc (BitVec.ofNat 8 (2 + bs.length) :: c :: bs))) ∧ t.crcOk = true ∧
      t.rx = rest ∧ t.out = s.out ∧ t.outLen = s.outLen ∧ t.appStatus = s.appStatus ∧ t.txb = s.txb ∧ t.txLen = s.txLen ∧
      t.ticks.toNat + answers.count none = s.ticks.toNat ∧ noByteCount t.trace = noByteCount s.trace + answers.count none ∧
      ∃ polls, t.trace = polls ++ s.trace ∧ (∀ e ∈ polls, e = .noByte ∨ ∃ a, e = .poll a)

/-- R171, R173, R183: a whole REQUEST_DATA, from the `CTRL` write on, answered by an intact reply with the request's command: one `WRITE` of the five-byte
request, one `RESERVE`, the reply's polls, and OK with the reply's first `n` bytes in `OUT` (UNSPEC where the reply is shorter).
(Which steps this falls in is the model's reading of R46, log entry 7.) -/
def Obligations.RequestDataCompletes : Prop :=
  ∀ (s : State) (c n : Byte) (reply : List Byte) (answers rest : List (Option Byte)) (acks : List Ack), s.busy = false →
    s.params.role = .master → s.params.PreambleFree → n.toNat ≤ 26 → reply.length ≤ 26 →
    s.host = [.wr 0#8 (ctrlWord 4#3 c n)] → s.acks = .ok :: .ok :: acks → answers.filterMap id = wireFrame s.params c reply →
    answers.count none < s.timeout.toNat → answers.getLast? ≠ some none → s.rx = answers ++ rest →
    ∃ t, Sys2Proof.core.run (3 + answers.length) s = .next t ∧ t.busy = false ∧ t.done = true ∧ t.result = .ok ∧ t.fvalid = true ∧
      t.outLen = n ∧ (∀ i (h : i < reply.length), i < n.toNat → readCell t.out i = .known reply[i]) ∧
      (∀ i, reply.length ≤ i → i < n.toNat → readCell t.out i = .unspec) ∧
      (∀ i, n.toNat ≤ i → readCell t.out i = readCell s.out i) ∧ t.appStatus = s.appStatus ∧ t.rx = rest ∧ t.acks = acks ∧
      ∃ polls, t.trace = polls ++ [.reserve (BitVec.ofNat 8 (n.toNat + s.params.reserveOverhead.val)) .ok,
          .write (wireFrame s.params c []) .ok] ++ s.trace ∧ (∀ e ∈ polls, e = .noByte ∨ ∃ a, e = .poll a)

/-- R178, R179, R182(b), R183: a whole SEND_ACTION, from the `CTRL` write on, answered by an intact one-byte status frame: one `WRITE` of the request with
its `ARG` bytes, one `RESERVE`, the reply's polls, and OK with the status byte, whatever it is, in `APP_STATUS`.
(Which steps this falls in is the model's reading of R46, log entry 7.) -/
def Obligations.SendActionCompletes : Prop :=
  ∀ (s : State) (c n st : Byte) (args : List Byte) (answers rest : List (Option Byte)) (acks : List Ack), s.busy = false →
    s.params.role = .master → s.params.PreambleFree → args.length = n.toNat → n.toNat ≤ 26 →
    (∀ i (h : i < args.length), readCell s.arg i = .known args[i]) →
    s.host = [.wr 0#8 (ctrlWord 5#3 c n)] → s.acks = .ok :: .ok :: acks → answers.filterMap id = wireFrame s.params c [st] →
    answers.count none < s.timeout.toNat → answers.getLast? ≠ some none → s.rx = answers ++ rest →
    ∃ t, Sys2Proof.core.run (3 + answers.length) s = .next t ∧ t.busy = false ∧ t.done = true ∧ t.result = .ok ∧ t.fvalid = true ∧
      t.appStatus = .known st ∧ t.out = s.out ∧ t.outLen = s.outLen ∧ t.rx = rest ∧ t.acks = acks ∧
      ∃ polls, t.trace = polls ++ [.reserve (BitVec.ofNat 8 (1 + s.params.reserveOverhead.val)) .ok,
          .write (wireFrame s.params c args) .ok] ++ s.trace ∧ (∀ e ∈ polls, e = .noByte ∨ ∃ a, e = .poll a)

/-- R191, R194, R202: a whole HANDLE of a read command, from the `CTRL` write on: the request's polls, one `APPGET`, one `WRITE` of the reply with the
application's bytes, and OK; `APP_STATUS` is left alone and the request's payload is not read.
(Which steps this falls in is the model's reading of R46, log entry 7.) -/
def Obligations.HandleServesReadCommand : Prop :=
  ∀ (s : State) (c : Byte) (m : PayloadLen) (req data app : List Byte) (answers rest : List (Option Byte)) (acks : List Ack),
    s.busy = false → s.params.role = .slave → s.params.PreambleFree → cmdTable s.params c = .read m → req.length ≤ 26 →
    data.length = m.val → s.app = data ++ app → s.host = [.wr 0#8 (ctrlWord 6#3 0 0)] → s.acks = .ok :: acks →
    answers.filterMap id = wireFrame s.params c req → answers.count none < s.timeout.toNat → answers.getLast? ≠ some none →
    s.rx = answers ++ rest →
    ∃ t, Sys2Proof.core.run (3 + answers.length) s = .next t ∧ t.busy = false ∧ t.done = true ∧ t.result = .ok ∧ t.fvalid = true ∧
      t.fCmd = .known c ∧ t.appStatus = s.appStatus ∧ t.out = s.out ∧ t.outLen = s.outLen ∧ t.rx = rest ∧ t.acks = acks ∧ t.app = app ∧
      ∃ polls, t.trace = [.write (wireFrame s.params c data) .ok, .appGet c m.val data] ++ polls ++ s.trace ∧
        (∀ e ∈ polls, e = .noByte ∨ ∃ a, e = .poll a)

/-- R191, R195, R197, R202: a whole HANDLE of a write command: the request's polls, one `APPSET` with the first `m` payload bytes, whatever the payload's
length (free bytes where it is shorter), one `WRITE` of the status frame with the setter's result, and OK whatever that result is.
(Which steps this falls in is the model's reading of R46, log entry 7.) -/
def Obligations.HandleServesWriteCommand : Prop :=
  ∀ (s : State) (c st : Byte) (m : PayloadLen) (req app : List Byte) (answers rest : List (Option Byte)) (acks : List Ack),
    s.busy = false → s.params.role = .slave → s.params.PreambleFree → cmdTable s.params c = .write m → req.length ≤ 26 →
    s.app = st :: app → s.host = [.wr 0#8 (ctrlWord 6#3 0 0)] → s.acks = .ok :: acks →
    answers.filterMap id = wireFrame s.params c req → answers.count none < s.timeout.toNat → answers.getLast? ≠ some none →
    s.rx = answers ++ rest →
    ∃ t, Sys2Proof.core.run (3 + answers.length) s = .next t ∧ t.busy = false ∧ t.done = true ∧ t.result = .ok ∧ t.fvalid = true ∧
      t.fCmd = .known c ∧ t.appStatus = .known st ∧ t.out = s.out ∧ t.outLen = s.outLen ∧ t.rx = rest ∧ t.acks = acks ∧ t.app = app ∧
      ∃ polls args, t.trace = [.write (wireFrame s.params c [st]) .ok, .appSet c args st] ++ polls ++ s.trace ∧
        args.length = m.val ∧ args.take req.length = req.take m.val ∧ (∀ e ∈ polls, e = .noByte ∨ ∃ a, e = .poll a)

/-- R191, R196, R202: a whole HANDLE of an unrecognised command: the request's polls and one `WRITE` of the not-supported status frame; no callback; the
result is NOT_SUPPORTED.
(Which steps this falls in is the model's reading of R46, log entry 7.) -/
def Obligations.HandleAnswersUnsupportedCommand : Prop :=
  ∀ (s : State) (c : Byte) (req : List Byte) (answers rest : List (Option Byte)) (acks : List Ack),
    s.busy = false → s.params.role = .slave → s.params.PreambleFree → cmdTable s.params c = .unsupported → req.length ≤ 26 →
    s.host = [.wr 0#8 (ctrlWord 6#3 0 0)] → s.acks = .ok :: acks →
    answers.filterMap id = wireFrame s.params c req → answers.count none < s.timeout.toNat → answers.getLast? ≠ some none →
    s.rx = answers ++ rest →
    ∃ t, Sys2Proof.core.run (2 + answers.length) s = .next t ∧ t.busy = false ∧ t.done = true ∧ t.result = .notSupported ∧ t.fvalid = true ∧
      t.fCmd = .known c ∧ t.appStatus = .known s.params.statusNotSupported ∧ t.out = s.out ∧ t.outLen = s.outLen ∧ t.rx = rest ∧
      t.acks = acks ∧ t.app = s.app ∧
      ∃ polls, t.trace = [.write (wireFrame s.params c [s.params.statusNotSupported]) .ok] ++ polls ++ s.trace ∧
        (∀ e ∈ polls, e = .noByte ∨ ∃ a, e = .poll a)
end

