-- ==== Sys2Proof/Laws/State.lean ====
section
/-! SUPPORT. One lemma per field and per named update of the state: what each shared update writes and what it leaves. -/

namespace Sys2Proof.Machine

/-! ### `State.drawn` -/

@[simp] theorem State.drawn_params (s : State) : (s.drawn).params = s.params := rfl
@[simp] theorem State.drawn_busy (s : State) : (s.drawn).busy = s.busy := rfl
@[simp] theorem State.drawn_done (s : State) : (s.drawn).done = s.done := rfl
@[simp] theorem State.drawn_fvalid (s : State) : (s.drawn).fvalid = s.fvalid := rfl
@[simp] theorem State.drawn_result (s : State) : (s.drawn).result = s.result := rfl
@[simp] theorem State.drawn_timeout (s : State) : (s.drawn).timeout = s.timeout := rfl
@[simp] theorem State.drawn_arg (s : State) : (s.drawn).arg = s.arg := rfl
@[simp] theorem State.drawn_fLen (s : State) : (s.drawn).fLen = s.fLen := rfl
@[simp] theorem State.drawn_fCmd (s : State) : (s.drawn).fCmd = s.fCmd := rfl
@[simp] theorem State.drawn_fPay (s : State) : (s.drawn).fPay = s.fPay := rfl
@[simp] theorem State.drawn_fCrcHi (s : State) : (s.drawn).fCrcHi = s.fCrcHi := rfl
@[simp] theorem State.drawn_fCrcLo (s : State) : (s.drawn).fCrcLo = s.fCrcLo := rfl
@[simp] theorem State.drawn_out (s : State) : (s.drawn).out = s.out := rfl
@[simp] theorem State.drawn_outLen (s : State) : (s.drawn).outLen = s.outLen := rfl
@[simp] theorem State.drawn_appStatus (s : State) : (s.drawn).appStatus = s.appStatus := rfl
@[simp] theorem State.drawn_txb (s : State) : (s.drawn).txb = s.txb := rfl
@[simp] theorem State.drawn_txLen (s : State) : (s.drawn).txLen = s.txLen := rfl
@[simp] theorem State.drawn_dstate (s : State) : (s.drawn).dstate = s.dstate := rfl
@[simp] theorem State.drawn_ticks (s : State) : (s.drawn).ticks = s.ticks := rfl
@[simp] theorem State.drawn_idx (s : State) : (s.drawn).idx = s.idx := rfl
@[simp] theorem State.drawn_tstate (s : State) : (s.drawn).tstate = s.tstate := rfl
@[simp] theorem State.drawn_op (s : State) : (s.drawn).op = s.op := rfl
@[simp] theorem State.drawn_reqCmd (s : State) : (s.drawn).reqCmd = s.reqCmd := rfl
@[simp] theorem State.drawn_reqLen (s : State) : (s.drawn).reqLen = s.reqLen := rfl
@[simp] theorem State.drawn_host (s : State) : (s.drawn).host = s.host := rfl
@[simp] theorem State.drawn_rx (s : State) : (s.drawn).rx = s.rx := rfl
@[simp] theorem State.drawn_acks (s : State) : (s.drawn).acks = s.acks := rfl
@[simp] theorem State.drawn_app (s : State) : (s.drawn).app = s.app := rfl
@[simp] theorem State.drawn_draws (s : State) : (s.drawn).draws = s.draws + 1 := rfl
@[simp] theorem State.drawn_trace (s : State) : (s.drawn).trace = s.trace := rfl
@[simp] theorem State.drawn_reads (s : State) : (s.drawn).reads = s.reads := rfl

/-! ### `State.setFvalid` -/

@[simp] theorem State.setFvalid_params (b : Bool) (s : State) : (s.setFvalid b).params = s.params := rfl
@[simp] theorem State.setFvalid_busy (b : Bool) (s : State) : (s.setFvalid b).busy = s.busy := rfl
@[simp] theorem State.setFvalid_done (b : Bool) (s : State) : (s.setFvalid b).done = s.done := rfl
@[simp] theorem State.setFvalid_fvalid (b : Bool) (s : State) : (s.setFvalid b).fvalid = b := rfl
@[simp] theorem State.setFvalid_result (b : Bool) (s : State) : (s.setFvalid b).result = s.result := rfl
@[simp] theorem State.setFvalid_timeout (b : Bool) (s : State) : (s.setFvalid b).timeout = s.timeout := rfl
@[simp] theorem State.setFvalid_arg (b : Bool) (s : State) : (s.setFvalid b).arg = s.arg := rfl
@[simp] theorem State.setFvalid_fLen (b : Bool) (s : State) : (s.setFvalid b).fLen = s.fLen := rfl
@[simp] theorem State.setFvalid_fCmd (b : Bool) (s : State) : (s.setFvalid b).fCmd = s.fCmd := rfl
@[simp] theorem State.setFvalid_fPay (b : Bool) (s : State) : (s.setFvalid b).fPay = s.fPay := rfl
@[simp] theorem State.setFvalid_fCrcHi (b : Bool) (s : State) : (s.setFvalid b).fCrcHi = s.fCrcHi := rfl
@[simp] theorem State.setFvalid_fCrcLo (b : Bool) (s : State) : (s.setFvalid b).fCrcLo = s.fCrcLo := rfl
@[simp] theorem State.setFvalid_out (b : Bool) (s : State) : (s.setFvalid b).out = s.out := rfl
@[simp] theorem State.setFvalid_outLen (b : Bool) (s : State) : (s.setFvalid b).outLen = s.outLen := rfl
@[simp] theorem State.setFvalid_appStatus (b : Bool) (s : State) : (s.setFvalid b).appStatus = s.appStatus := rfl
@[simp] theorem State.setFvalid_txb (b : Bool) (s : State) : (s.setFvalid b).txb = s.txb := rfl
@[simp] theorem State.setFvalid_txLen (b : Bool) (s : State) : (s.setFvalid b).txLen = s.txLen := rfl
@[simp] theorem State.setFvalid_dstate (b : Bool) (s : State) : (s.setFvalid b).dstate = s.dstate := rfl
@[simp] theorem State.setFvalid_ticks (b : Bool) (s : State) : (s.setFvalid b).ticks = s.ticks := rfl
@[simp] theorem State.setFvalid_idx (b : Bool) (s : State) : (s.setFvalid b).idx = s.idx := rfl
@[simp] theorem State.setFvalid_tstate (b : Bool) (s : State) : (s.setFvalid b).tstate = s.tstate := rfl
@[simp] theorem State.setFvalid_op (b : Bool) (s : State) : (s.setFvalid b).op = s.op := rfl
@[simp] theorem State.setFvalid_reqCmd (b : Bool) (s : State) : (s.setFvalid b).reqCmd = s.reqCmd := rfl
@[simp] theorem State.setFvalid_reqLen (b : Bool) (s : State) : (s.setFvalid b).reqLen = s.reqLen := rfl
@[simp] theorem State.setFvalid_host (b : Bool) (s : State) : (s.setFvalid b).host = s.host := rfl
@[simp] theorem State.setFvalid_rx (b : Bool) (s : State) : (s.setFvalid b).rx = s.rx := rfl
@[simp] theorem State.setFvalid_acks (b : Bool) (s : State) : (s.setFvalid b).acks = s.acks := rfl
@[simp] theorem State.setFvalid_app (b : Bool) (s : State) : (s.setFvalid b).app = s.app := rfl
@[simp] theorem State.setFvalid_draws (b : Bool) (s : State) : (s.setFvalid b).draws = s.draws := rfl
@[simp] theorem State.setFvalid_trace (b : Bool) (s : State) : (s.setFvalid b).trace = s.trace := rfl
@[simp] theorem State.setFvalid_reads (b : Bool) (s : State) : (s.setFvalid b).reads = s.reads := rfl

/-! ### `State.discardFrame` -/

@[simp] theorem State.discardFrame_params (s : State) : (s.discardFrame).params = s.params := rfl
@[simp] theorem State.discardFrame_busy (s : State) : (s.discardFrame).busy = s.busy := rfl
@[simp] theorem State.discardFrame_done (s : State) : (s.discardFrame).done = s.done := rfl
@[simp] theorem State.discardFrame_fvalid (s : State) : (s.discardFrame).fvalid = false := rfl
@[simp] theorem State.discardFrame_result (s : State) : (s.discardFrame).result = s.result := rfl
@[simp] theorem State.discardFrame_timeout (s : State) : (s.discardFrame).timeout = s.timeout := rfl
@[simp] theorem State.discardFrame_arg (s : State) : (s.discardFrame).arg = s.arg := rfl
@[simp] theorem State.discardFrame_fLen (s : State) : (s.discardFrame).fLen = s.fLen := rfl
@[simp] theorem State.discardFrame_fCmd (s : State) : (s.discardFrame).fCmd = s.fCmd := rfl
@[simp] theorem State.discardFrame_fPay (s : State) : (s.discardFrame).fPay = s.fPay := rfl
@[simp] theorem State.discardFrame_fCrcHi (s : State) : (s.discardFrame).fCrcHi = s.fCrcHi := rfl
@[simp] theorem State.discardFrame_fCrcLo (s : State) : (s.discardFrame).fCrcLo = s.fCrcLo := rfl
@[simp] theorem State.discardFrame_out (s : State) : (s.discardFrame).out = s.out := rfl
@[simp] theorem State.discardFrame_outLen (s : State) : (s.discardFrame).outLen = s.outLen := rfl
@[simp] theorem State.discardFrame_appStatus (s : State) : (s.discardFrame).appStatus = s.appStatus := rfl
@[simp] theorem State.discardFrame_txb (s : State) : (s.discardFrame).txb = s.txb := rfl
@[simp] theorem State.discardFrame_txLen (s : State) : (s.discardFrame).txLen = s.txLen := rfl
@[simp] theorem State.discardFrame_dstate (s : State) : (s.discardFrame).dstate = s.dstate := rfl
@[simp] theorem State.discardFrame_ticks (s : State) : (s.discardFrame).ticks = s.ticks := rfl
@[simp] theorem State.discardFrame_idx (s : State) : (s.discardFrame).idx = s.idx := rfl
@[simp] theorem State.discardFrame_tstate (s : State) : (s.discardFrame).tstate = s.tstate := rfl
@[simp] theorem State.discardFrame_op (s : State) : (s.discardFrame).op = s.op := rfl
@[simp] theorem State.discardFrame_reqCmd (s : State) : (s.discardFrame).reqCmd = s.reqCmd := rfl
@[simp] theorem State.discardFrame_reqLen (s : State) : (s.discardFrame).reqLen = s.reqLen := rfl
@[simp] theorem State.discardFrame_host (s : State) : (s.discardFrame).host = s.host := rfl
@[simp] theorem State.discardFrame_rx (s : State) : (s.discardFrame).rx = s.rx := rfl
@[simp] theorem State.discardFrame_acks (s : State) : (s.discardFrame).acks = s.acks := rfl
@[simp] theorem State.discardFrame_app (s : State) : (s.discardFrame).app = s.app := rfl
@[simp] theorem State.discardFrame_draws (s : State) : (s.discardFrame).draws = s.draws := rfl
@[simp] theorem State.discardFrame_trace (s : State) : (s.discardFrame).trace = s.trace := rfl
@[simp] theorem State.discardFrame_reads (s : State) : (s.discardFrame).reads = s.reads := rfl

/-! ### `State.startFlags` -/

@[simp] theorem State.startFlags_params (s : State) : (s.startFlags).params = s.params := rfl
@[simp] theorem State.startFlags_busy (s : State) : (s.startFlags).busy = true := rfl
@[simp] theorem State.startFlags_done (s : State) : (s.startFlags).done = false := rfl
@[simp] theorem State.startFlags_fvalid (s : State) : (s.startFlags).fvalid = s.fvalid := rfl
@[simp] theorem State.startFlags_result (s : State) : (s.startFlags).result = s.result := rfl
@[simp] theorem State.startFlags_timeout (s : State) : (s.startFlags).timeout = s.timeout := rfl
@[simp] theorem State.startFlags_arg (s : State) : (s.startFlags).arg = s.arg := rfl
@[simp] theorem State.startFlags_fLen (s : State) : (s.startFlags).fLen = s.fLen := rfl
@[simp] theorem State.startFlags_fCmd (s : State) : (s.startFlags).fCmd = s.fCmd := rfl
@[simp] theorem State.startFlags_fPay (s : State) : (s.startFlags).fPay = s.fPay := rfl
@[simp] theorem State.startFlags_fCrcHi (s : State) : (s.startFlags).fCrcHi = s.fCrcHi := rfl
@[simp] theorem State.startFlags_fCrcLo (s : State) : (s.startFlags).fCrcLo = s.fCrcLo := rfl
@[simp] theorem State.startFlags_out (s : State) : (s.startFlags).out = s.out := rfl
@[simp] theorem State.startFlags_outLen (s : State) : (s.startFlags).outLen = s.outLen := rfl
@[simp] theorem State.startFlags_appStatus (s : State) : (s.startFlags).appStatus = s.appStatus := rfl
@[simp] theorem State.startFlags_txb (s : State) : (s.startFlags).txb = s.txb := rfl
@[simp] theorem State.startFlags_txLen (s : State) : (s.startFlags).txLen = s.txLen := rfl
@[simp] theorem State.startFlags_dstate (s : State) : (s.startFlags).dstate = s.dstate := rfl
@[simp] theorem State.startFlags_ticks (s : State) : (s.startFlags).ticks = s.ticks := rfl
@[simp] theorem State.startFlags_idx (s : State) : (s.startFlags).idx = s.idx := rfl
@[simp] theorem State.startFlags_tstate (s : State) : (s.startFlags).tstate = s.tstate := rfl
@[simp] theorem State.startFlags_op (s : State) : (s.startFlags).op = s.op := rfl
@[simp] theorem State.startFlags_reqCmd (s : State) : (s.startFlags).reqCmd = s.reqCmd := rfl
@[simp] theorem State.startFlags_reqLen (s : State) : (s.startFlags).reqLen = s.reqLen := rfl
@[simp] theorem State.startFlags_host (s : State) : (s.startFlags).host = s.host := rfl
@[simp] theorem State.startFlags_rx (s : State) : (s.startFlags).rx = s.rx := rfl
@[simp] theorem State.startFlags_acks (s : State) : (s.startFlags).acks = s.acks := rfl
@[simp] theorem State.startFlags_app (s : State) : (s.startFlags).app = s.app := rfl
@[simp] theorem State.startFlags_draws (s : State) : (s.startFlags).draws = s.draws := rfl
@[simp] theorem State.startFlags_trace (s : State) : (s.startFlags).trace = s.trace := rfl
@[simp] theorem State.startFlags_reads (s : State) : (s.startFlags).reads = s.reads := rfl

/-! ### `State.finishFlags` -/

@[simp] theorem State.finishFlags_params (c : ResultCode) (s : State) : (s.finishFlags c).params = s.params := rfl
@[simp] theorem State.finishFlags_busy (c : ResultCode) (s : State) : (s.finishFlags c).busy = false := rfl
@[simp] theorem State.finishFlags_done (c : ResultCode) (s : State) : (s.finishFlags c).done = true := rfl
@[simp] theorem State.finishFlags_fvalid (c : ResultCode) (s : State) : (s.finishFlags c).fvalid = s.fvalid := rfl
@[simp] theorem State.finishFlags_result (c : ResultCode) (s : State) : (s.finishFlags c).result = c := rfl
@[simp] theorem State.finishFlags_timeout (c : ResultCode) (s : State) : (s.finishFlags c).timeout = s.timeout := rfl
@[simp] theorem State.finishFlags_arg (c : ResultCode) (s : State) : (s.finishFlags c).arg = s.arg := rfl
@[simp] theorem State.finishFlags_fLen (c : ResultCode) (s : State) : (s.finishFlags c).fLen = s.fLen := rfl
@[simp] theorem State.finishFlags_fCmd (c : ResultCode) (s : State) : (s.finishFlags c).fCmd = s.fCmd := rfl
@[simp] theorem State.finishFlags_fPay (c : ResultCode) (s : State) : (s.finishFlags c).fPay = s.fPay := rfl
@[simp] theorem State.finishFlags_fCrcHi (c : ResultCode) (s : State) : (s.finishFlags c).fCrcHi = s.fCrcHi := rfl
@[simp] theorem State.finishFlags_fCrcLo (c : ResultCode) (s : State) : (s.finishFlags c).fCrcLo = s.fCrcLo := rfl
@[simp] theorem State.finishFlags_out (c : ResultCode) (s : State) : (s.finishFlags c).out = s.out := rfl
@[simp] theorem State.finishFlags_outLen (c : ResultCode) (s : State) : (s.finishFlags c).outLen = s.outLen := rfl
@[simp] theorem State.finishFlags_appStatus (c : ResultCode) (s : State) : (s.finishFlags c).appStatus = s.appStatus := rfl
@[simp] theorem State.finishFlags_txb (c : ResultCode) (s : State) : (s.finishFlags c).txb = s.txb := rfl
@[simp] theorem State.finishFlags_txLen (c : ResultCode) (s : State) : (s.finishFlags c).txLen = s.txLen := rfl
@[simp] theorem State.finishFlags_dstate (c : ResultCode) (s : State) : (s.finishFlags c).dstate = s.dstate := rfl
@[simp] theorem State.finishFlags_ticks (c : ResultCode) (s : State) : (s.finishFlags c).ticks = s.ticks := rfl
@[simp] theorem State.finishFlags_idx (c : ResultCode) (s : State) : (s.finishFlags c).idx = s.idx := rfl
@[simp] theorem State.finishFlags_tstate (c : ResultCode) (s : State) : (s.finishFlags c).tstate = s.tstate := rfl
@[simp] theorem State.finishFlags_op (c : ResultCode) (s : State) : (s.finishFlags c).op = s.op := rfl
@[simp] theorem State.finishFlags_reqCmd (c : ResultCode) (s : State) : (s.finishFlags c).reqCmd = s.reqCmd := rfl
@[simp] theorem State.finishFlags_reqLen (c : ResultCode) (s : State) : (s.finishFlags c).reqLen = s.reqLen := rfl
@[simp] theorem State.finishFlags_host (c : ResultCode) (s : State) : (s.finishFlags c).host = s.host := rfl
@[simp] theorem State.finishFlags_rx (c : ResultCode) (s : State) : (s.finishFlags c).rx = s.rx := rfl
@[simp] theorem State.finishFlags_acks (c : ResultCode) (s : State) : (s.finishFlags c).acks = s.acks := rfl
@[simp] theorem State.finishFlags_app (c : ResultCode) (s : State) : (s.finishFlags c).app = s.app := rfl
@[simp] theorem State.finishFlags_draws (c : ResultCode) (s : State) : (s.finishFlags c).draws = s.draws := rfl
@[simp] theorem State.finishFlags_trace (c : ResultCode) (s : State) : (s.finishFlags c).trace = s.trace := rfl
@[simp] theorem State.finishFlags_reads (c : ResultCode) (s : State) : (s.finishFlags c).reads = s.reads := rfl

/-! ### `State.start` -/

@[simp] theorem State.start_params (o : BitVec 3) (cmd len : Byte) (s : State) : (s.start o cmd len).params = s.params := rfl
@[simp] theorem State.start_busy (o : BitVec 3) (cmd len : Byte) (s : State) : (s.start o cmd len).busy = true := rfl
@[simp] theorem State.start_done (o : BitVec 3) (cmd len : Byte) (s : State) : (s.start o cmd len).done = false := rfl
@[simp] theorem State.start_fvalid (o : BitVec 3) (cmd len : Byte) (s : State) : (s.start o cmd len).fvalid = s.fvalid := rfl
@[simp] theorem State.start_result (o : BitVec 3) (cmd len : Byte) (s : State) : (s.start o cmd len).result = s.result := rfl
@[simp] theorem State.start_timeout (o : BitVec 3) (cmd len : Byte) (s : State) : (s.start o cmd len).timeout = s.timeout := rfl
@[simp] theorem State.start_arg (o : BitVec 3) (cmd len : Byte) (s : State) : (s.start o cmd len).arg = s.arg := rfl
@[simp] theorem State.start_fLen (o : BitVec 3) (cmd len : Byte) (s : State) : (s.start o cmd len).fLen = s.fLen := rfl
@[simp] theorem State.start_fCmd (o : BitVec 3) (cmd len : Byte) (s : State) : (s.start o cmd len).fCmd = s.fCmd := rfl
@[simp] theorem State.start_fPay (o : BitVec 3) (cmd len : Byte) (s : State) : (s.start o cmd len).fPay = s.fPay := rfl
@[simp] theorem State.start_fCrcHi (o : BitVec 3) (cmd len : Byte) (s : State) : (s.start o cmd len).fCrcHi = s.fCrcHi := rfl
@[simp] theorem State.start_fCrcLo (o : BitVec 3) (cmd len : Byte) (s : State) : (s.start o cmd len).fCrcLo = s.fCrcLo := rfl
@[simp] theorem State.start_out (o : BitVec 3) (cmd len : Byte) (s : State) : (s.start o cmd len).out = s.out := rfl
@[simp] theorem State.start_outLen (o : BitVec 3) (cmd len : Byte) (s : State) : (s.start o cmd len).outLen = s.outLen := rfl
@[simp] theorem State.start_appStatus (o : BitVec 3) (cmd len : Byte) (s : State) : (s.start o cmd len).appStatus = s.appStatus := rfl
@[simp] theorem State.start_txb (o : BitVec 3) (cmd len : Byte) (s : State) : (s.start o cmd len).txb = s.txb := rfl
@[simp] theorem State.start_txLen (o : BitVec 3) (cmd len : Byte) (s : State) : (s.start o cmd len).txLen = s.txLen := rfl
@[simp] theorem State.start_dstate (o : BitVec 3) (cmd len : Byte) (s : State) : (s.start o cmd len).dstate = s.dstate := rfl
@[simp] theorem State.start_ticks (o : BitVec 3) (cmd len : Byte) (s : State) : (s.start o cmd len).ticks = s.ticks := rfl
@[simp] theorem State.start_idx (o : BitVec 3) (cmd len : Byte) (s : State) : (s.start o cmd len).idx = s.idx := rfl
@[simp] theorem State.start_tstate (o : BitVec 3) (cmd len : Byte) (s : State) : (s.start o cmd len).tstate = s.tstate := rfl
@[simp] theorem State.start_op (o : BitVec 3) (cmd len : Byte) (s : State) : (s.start o cmd len).op = o := rfl
@[simp] theorem State.start_reqCmd (o : BitVec 3) (cmd len : Byte) (s : State) : (s.start o cmd len).reqCmd = cmd := rfl
@[simp] theorem State.start_reqLen (o : BitVec 3) (cmd len : Byte) (s : State) : (s.start o cmd len).reqLen = len := rfl
@[simp] theorem State.start_host (o : BitVec 3) (cmd len : Byte) (s : State) : (s.start o cmd len).host = s.host := rfl
@[simp] theorem State.start_rx (o : BitVec 3) (cmd len : Byte) (s : State) : (s.start o cmd len).rx = s.rx := rfl
@[simp] theorem State.start_acks (o : BitVec 3) (cmd len : Byte) (s : State) : (s.start o cmd len).acks = s.acks := rfl
@[simp] theorem State.start_app (o : BitVec 3) (cmd len : Byte) (s : State) : (s.start o cmd len).app = s.app := rfl
@[simp] theorem State.start_draws (o : BitVec 3) (cmd len : Byte) (s : State) : (s.start o cmd len).draws = s.draws := rfl
@[simp] theorem State.start_trace (o : BitVec 3) (cmd len : Byte) (s : State) : (s.start o cmd len).trace = s.trace := rfl
@[simp] theorem State.start_reads (o : BitVec 3) (cmd len : Byte) (s : State) : (s.start o cmd len).reads = s.reads := rfl

/-! ### `State.finish` -/

@[simp] theorem State.finish_params (c : ResultCode) (s : State) : (s.finish c).params = s.params := rfl
@[simp] theorem State.finish_busy (c : ResultCode) (s : State) : (s.finish c).busy = false := rfl
@[simp] theorem State.finish_done (c : ResultCode) (s : State) : (s.finish c).done = true := rfl
@[simp] theorem State.finish_fvalid (c : ResultCode) (s : State) : (s.finish c).fvalid = s.fvalid := rfl
@[simp] theorem State.finish_result (c : ResultCode) (s : State) : (s.finish c).result = c := rfl
@[simp] theorem State.finish_timeout (c : ResultCode) (s : State) : (s.finish c).timeout = s.timeout := rfl
@[simp] theorem State.finish_arg (c : ResultCode) (s : State) : (s.finish c).arg = s.arg := rfl
@[simp] theorem State.finish_fLen (c : ResultCode) (s : State) : (s.finish c).fLen = s.fLen := rfl
@[simp] theorem State.finish_fCmd (c : ResultCode) (s : State) : (s.finish c).fCmd = s.fCmd := rfl
@[simp] theorem State.finish_fPay (c : ResultCode) (s : State) : (s.finish c).fPay = s.fPay := rfl
@[simp] theorem State.finish_fCrcHi (c : ResultCode) (s : State) : (s.finish c).fCrcHi = s.fCrcHi := rfl
@[simp] theorem State.finish_fCrcLo (c : ResultCode) (s : State) : (s.finish c).fCrcLo = s.fCrcLo := rfl
@[simp] theorem State.finish_out (c : ResultCode) (s : State) : (s.finish c).out = s.out := rfl
@[simp] theorem State.finish_outLen (c : ResultCode) (s : State) : (s.finish c).outLen = s.outLen := rfl
@[simp] theorem State.finish_appStatus (c : ResultCode) (s : State) : (s.finish c).appStatus = s.appStatus := rfl
@[simp] theorem State.finish_txb (c : ResultCode) (s : State) : (s.finish c).txb = s.txb := rfl
@[simp] theorem State.finish_txLen (c : ResultCode) (s : State) : (s.finish c).txLen = s.txLen := rfl
@[simp] theorem State.finish_dstate (c : ResultCode) (s : State) : (s.finish c).dstate = .idle := rfl
@[simp] theorem State.finish_ticks (c : ResultCode) (s : State) : (s.finish c).ticks = s.ticks := rfl
@[simp] theorem State.finish_idx (c : ResultCode) (s : State) : (s.finish c).idx = s.idx := rfl
@[simp] theorem State.finish_tstate (c : ResultCode) (s : State) : (s.finish c).tstate = .idle := rfl
@[simp] theorem State.finish_op (c : ResultCode) (s : State) : (s.finish c).op = s.op := rfl
@[simp] theorem State.finish_reqCmd (c : ResultCode) (s : State) : (s.finish c).reqCmd = s.reqCmd := rfl
@[simp] theorem State.finish_reqLen (c : ResultCode) (s : State) : (s.finish c).reqLen = s.reqLen := rfl
@[simp] theorem State.finish_host (c : ResultCode) (s : State) : (s.finish c).host = s.host := rfl
@[simp] theorem State.finish_rx (c : ResultCode) (s : State) : (s.finish c).rx = s.rx := rfl
@[simp] theorem State.finish_acks (c : ResultCode) (s : State) : (s.finish c).acks = s.acks := rfl
@[simp] theorem State.finish_app (c : ResultCode) (s : State) : (s.finish c).app = s.app := rfl
@[simp] theorem State.finish_draws (c : ResultCode) (s : State) : (s.finish c).draws = s.draws := rfl
@[simp] theorem State.finish_trace (c : ResultCode) (s : State) : (s.finish c).trace = s.trace := rfl
@[simp] theorem State.finish_reads (c : ResultCode) (s : State) : (s.finish c).reads = s.reads := rfl

/-! ### `State.decodeStart` -/

@[simp] theorem State.decodeStart_params (t : Word) (s : State) : (s.decodeStart t).params = s.params := rfl
@[simp] theorem State.decodeStart_busy (t : Word) (s : State) : (s.decodeStart t).busy = s.busy := rfl
@[simp] theorem State.decodeStart_done (t : Word) (s : State) : (s.decodeStart t).done = s.done := rfl
@[simp] theorem State.decodeStart_fvalid (t : Word) (s : State) : (s.decodeStart t).fvalid = false := rfl
@[simp] theorem State.decodeStart_result (t : Word) (s : State) : (s.decodeStart t).result = s.result := rfl
@[simp] theorem State.decodeStart_timeout (t : Word) (s : State) : (s.decodeStart t).timeout = s.timeout := rfl
@[simp] theorem State.decodeStart_arg (t : Word) (s : State) : (s.decodeStart t).arg = s.arg := rfl
@[simp] theorem State.decodeStart_fLen (t : Word) (s : State) : (s.decodeStart t).fLen = .unspec := rfl
@[simp] theorem State.decodeStart_fCmd (t : Word) (s : State) : (s.decodeStart t).fCmd = .unspec := rfl
@[simp] theorem State.decodeStart_fPay (t : Word) (s : State) : (s.decodeStart t).fPay = Vector.replicate 26 .unspec := rfl
@[simp] theorem State.decodeStart_fCrcHi (t : Word) (s : State) : (s.decodeStart t).fCrcHi = .unspec := rfl
@[simp] theorem State.decodeStart_fCrcLo (t : Word) (s : State) : (s.decodeStart t).fCrcLo = .unspec := rfl
@[simp] theorem State.decodeStart_out (t : Word) (s : State) : (s.decodeStart t).out = s.out := rfl
@[simp] theorem State.decodeStart_outLen (t : Word) (s : State) : (s.decodeStart t).outLen = s.outLen := rfl
@[simp] theorem State.decodeStart_appStatus (t : Word) (s : State) : (s.decodeStart t).appStatus = s.appStatus := rfl
@[simp] theorem State.decodeStart_txb (t : Word) (s : State) : (s.decodeStart t).txb = s.txb := rfl
@[simp] theorem State.decodeStart_txLen (t : Word) (s : State) : (s.decodeStart t).txLen = s.txLen := rfl
@[simp] theorem State.decodeStart_dstate (t : Word) (s : State) : (s.decodeStart t).dstate = .seekLength := rfl
@[simp] theorem State.decodeStart_ticks (t : Word) (s : State) : (s.decodeStart t).ticks = t := rfl
@[simp] theorem State.decodeStart_idx (t : Word) (s : State) : (s.decodeStart t).idx = 0 := rfl
@[simp] theorem State.decodeStart_tstate (t : Word) (s : State) : (s.decodeStart t).tstate = s.tstate := rfl
@[simp] theorem State.decodeStart_op (t : Word) (s : State) : (s.decodeStart t).op = s.op := rfl
@[simp] theorem State.decodeStart_reqCmd (t : Word) (s : State) : (s.decodeStart t).reqCmd = s.reqCmd := rfl
@[simp] theorem State.decodeStart_reqLen (t : Word) (s : State) : (s.decodeStart t).reqLen = s.reqLen := rfl
@[simp] theorem State.decodeStart_host (t : Word) (s : State) : (s.decodeStart t).host = s.host := rfl
@[simp] theorem State.decodeStart_rx (t : Word) (s : State) : (s.decodeStart t).rx = s.rx := rfl
@[simp] theorem State.decodeStart_acks (t : Word) (s : State) : (s.decodeStart t).acks = s.acks := rfl
@[simp] theorem State.decodeStart_app (t : Word) (s : State) : (s.decodeStart t).app = s.app := rfl
@[simp] theorem State.decodeStart_draws (t : Word) (s : State) : (s.decodeStart t).draws = s.draws := rfl
@[simp] theorem State.decodeStart_trace (t : Word) (s : State) : (s.decodeStart t).trace = s.trace := rfl
@[simp] theorem State.decodeStart_reads (t : Word) (s : State) : (s.decodeStart t).reads = s.reads := rfl

/-! ### `State.decodeEnd` -/

@[simp] theorem State.decodeEnd_params (c : ResultCode) (s : State) : (s.decodeEnd c).params = s.params := rfl
@[simp] theorem State.decodeEnd_busy (c : ResultCode) (s : State) : (s.decodeEnd c).busy = s.busy := rfl
@[simp] theorem State.decodeEnd_done (c : ResultCode) (s : State) : (s.decodeEnd c).done = s.done := rfl
@[simp] theorem State.decodeEnd_fvalid (c : ResultCode) (s : State) : (s.decodeEnd c).fvalid = decide (c = .ok) := rfl
@[simp] theorem State.decodeEnd_result (c : ResultCode) (s : State) : (s.decodeEnd c).result = s.result := rfl
@[simp] theorem State.decodeEnd_timeout (c : ResultCode) (s : State) : (s.decodeEnd c).timeout = s.timeout := rfl
@[simp] theorem State.decodeEnd_arg (c : ResultCode) (s : State) : (s.decodeEnd c).arg = s.arg := rfl
@[simp] theorem State.decodeEnd_fLen (c : ResultCode) (s : State) : (s.decodeEnd c).fLen = s.fLen := rfl
@[simp] theorem State.decodeEnd_fCmd (c : ResultCode) (s : State) : (s.decodeEnd c).fCmd = s.fCmd := rfl
@[simp] theorem State.decodeEnd_fPay (c : ResultCode) (s : State) : (s.decodeEnd c).fPay = s.fPay := rfl
@[simp] theorem State.decodeEnd_fCrcHi (c : ResultCode) (s : State) : (s.decodeEnd c).fCrcHi = s.fCrcHi := rfl
@[simp] theorem State.decodeEnd_fCrcLo (c : ResultCode) (s : State) : (s.decodeEnd c).fCrcLo = s.fCrcLo := rfl
@[simp] theorem State.decodeEnd_out (c : ResultCode) (s : State) : (s.decodeEnd c).out = s.out := rfl
@[simp] theorem State.decodeEnd_outLen (c : ResultCode) (s : State) : (s.decodeEnd c).outLen = s.outLen := rfl
@[simp] theorem State.decodeEnd_appStatus (c : ResultCode) (s : State) : (s.decodeEnd c).appStatus = s.appStatus := rfl
@[simp] theorem State.decodeEnd_txb (c : ResultCode) (s : State) : (s.decodeEnd c).txb = s.txb := rfl
@[simp] theorem State.decodeEnd_txLen (c : ResultCode) (s : State) : (s.decodeEnd c).txLen = s.txLen := rfl
@[simp] theorem State.decodeEnd_dstate (c : ResultCode) (s : State) : (s.decodeEnd c).dstate = .idle := rfl
@[simp] theorem State.decodeEnd_ticks (c : ResultCode) (s : State) : (s.decodeEnd c).ticks = s.ticks := rfl
@[simp] theorem State.decodeEnd_idx (c : ResultCode) (s : State) : (s.decodeEnd c).idx = s.idx := rfl
@[simp] theorem State.decodeEnd_tstate (c : ResultCode) (s : State) : (s.decodeEnd c).tstate = s.tstate := rfl
@[simp] theorem State.decodeEnd_op (c : ResultCode) (s : State) : (s.decodeEnd c).op = s.op := rfl
@[simp] theorem State.decodeEnd_reqCmd (c : ResultCode) (s : State) : (s.decodeEnd c).reqCmd = s.reqCmd := rfl
@[simp] theorem State.decodeEnd_reqLen (c : ResultCode) (s : State) : (s.decodeEnd c).reqLen = s.reqLen := rfl
@[simp] theorem State.decodeEnd_host (c : ResultCode) (s : State) : (s.decodeEnd c).host = s.host := rfl
@[simp] theorem State.decodeEnd_rx (c : ResultCode) (s : State) : (s.decodeEnd c).rx = s.rx := rfl
@[simp] theorem State.decodeEnd_acks (c : ResultCode) (s : State) : (s.decodeEnd c).acks = s.acks := rfl
@[simp] theorem State.decodeEnd_app (c : ResultCode) (s : State) : (s.decodeEnd c).app = s.app := rfl
@[simp] theorem State.decodeEnd_draws (c : ResultCode) (s : State) : (s.decodeEnd c).draws = s.draws := rfl
@[simp] theorem State.decodeEnd_trace (c : ResultCode) (s : State) : (s.decodeEnd c).trace = s.trace := rfl
@[simp] theorem State.decodeEnd_reads (c : ResultCode) (s : State) : (s.decodeEnd c).reads = s.reads := rfl

end Sys2Proof.Machine
end

