-- ==== Sys2Proof/Laws/Ops.lean ====
section
/-! SUPPORT. What each shared operation does, said once: register elements and free values, the checksum's bytes, the encoder, the port
events and the host's register space. -/

namespace Sys2Proof.Machine

/-! ### The constants of R6 as numbers -/

@[simp] theorem payloadCap_eq : payloadCap = 26 := rfl
@[simp] theorem txCap_eq : txCap = 64 := rfl
@[simp] theorem headerLen_eq : headerLen = 2 := rfl
@[simp] theorem crcLen_eq : crcLen = 2 := rfl
@[simp] theorem preambleLen_eq : preambleLen = 1 := rfl
@[simp] theorem overhead_eq : overhead = 5 := rfl
@[simp] theorem maxLength_eq : maxLength = 28 := rfl

/-! ### Readings -/

@[simp] theorem Val.value_known (k i : Nat) (b : Byte) : (Val.known b).value k i = b := rfl

@[simp] theorem Val.isKnown_known (b : Byte) : (Val.known b).isKnown = true := rfl

@[simp] theorem Val.isKnown_unspec : (Val.unspec : Val 8).isKnown = false := rfl

theorem Val.exists_of_isKnown {v : Val 8} (h : v.isKnown = true) : ∃ b, v = .known b := by
  cases v with
  | unspec => simp at h
  | known b => exact ⟨b, rfl⟩

@[simp] theorem valuesFrom_nil (k i : Nat) : valuesFrom k i [] = [] := rfl

@[simp] theorem valuesFrom_cons (k i : Nat) (v : Val 8) (vs : List (Val 8)) :
    valuesFrom k i (v :: vs) = v.value k i :: valuesFrom k (i + 1) vs := rfl

@[simp] theorem valuesFrom_length (k i : Nat) (vs : List (Val 8)) : (valuesFrom k i vs).length = vs.length := by
  induction vs generalizing i with
  | nil => rfl
  | cons v vs ih => simp [ih]

theorem valuesFrom_append (k i : Nat) (us vs : List (Val 8)) :
    valuesFrom k i (us ++ vs) = valuesFrom k i us ++ valuesFrom k (i + us.length) vs := by
  induction us generalizing i with
  | nil => simp
  | cons u us ih => simp [ih, Nat.add_assoc, Nat.add_comm 1]

theorem valuesFrom_take (k i n : Nat) (vs : List (Val 8)) : valuesFrom k i (vs.take n) = (valuesFrom k i vs).take n := by
  induction vs generalizing i n with
  | nil => simp
  | cons v vs ih => cases n <;> simp [ih]

@[simp] theorem knownCells_length (bs : List Byte) : (knownCells bs).length = bs.length := by simp [knownCells]

@[simp] theorem knownCells_nil : knownCells [] = [] := rfl

@[simp] theorem knownCells_cons (b : Byte) (bs : List Byte) : knownCells (b :: bs) = .known b :: knownCells bs := rfl

/-- Written bytes read as what was written, whatever the draws. -/
@[simp] theorem valuesFrom_knownCells (k i : Nat) (bs : List Byte) : valuesFrom k i (knownCells bs) = bs := by
  induction bs generalizing i with
  | nil => rfl
  | cons b bs ih => simp [ih]

/-- A written element reads as its byte at its place in a reading. -/
theorem valuesFrom_getElem?_known {vs : List (Val 8)} (k j : Nat) {i : Nat} {b : Byte} (h : vs[i]? = some (.known b)) :
    (valuesFrom k j vs)[i]? = some b := by
  induction vs generalizing i j with
  | nil => simp at h
  | cons v vs ih =>
    cases i with
    | zero => simp at h; simp [h]
    | succ i => simp at h; simpa using ih (j + 1) h

/-! ### Register arrays -/

theorem readCell_of_lt {n : Nat} (a : Vector (Val 8) n) (i : Nat) (h : i < n) : readCell a i = a[i] := by
  simp [readCell, h]

theorem readCell_of_ge {n : Nat} (a : Vector (Val 8) n) (i : Nat) (h : n ≤ i) : readCell a i = .unspec := by
  simp [readCell, Nat.not_lt.mpr h]

@[simp] theorem readCell_replicate (n i : Nat) : readCell (Vector.replicate n (.unspec : Val 8)) i = .unspec := by
  by_cases h : i < n <;> simp [readCell, h]

/-- A write is read back, and every other element is left alone. -/
theorem readCell_writeCell {n : Nat} (a : Vector (Val 8) n) (i j : Nat) (v : Val 8) :
    readCell (writeCell a i v) j = if i = j ∧ i < n then v else readCell a j := by
  unfold readCell writeCell
  by_cases hj : j < n
  · by_cases hij : i = j
    · subst hij; simp [hj]
    · simp [hj, hij]
  · have : ¬ (i = j ∧ i < n) := by omega
    simp [hj, this]

/-- A string of writes from `i` on is read back, and every element outside it is left alone. -/
theorem readCell_writeCells {n : Nat} (vs : List (Val 8)) (a : Vector (Val 8) n) (i j : Nat) :
    readCell (writeCells a i vs) j =
      if h : i ≤ j ∧ j < i + vs.length ∧ j < n then vs[j - i]'(by omega) else readCell a j := by
  induction vs generalizing a i with
  | nil =>
    have h : ¬ (i ≤ j ∧ j < i + ([] : List (Val 8)).length ∧ j < n) := by simp; omega
    rw [dif_neg h, writeCells]
  | cons v vs ih =>
    rw [writeCells, ih]
    simp only [readCell_writeCell, List.length_cons]
    by_cases hij : i = j
    · subst hij
      by_cases hn : i < n
      · simp [hn]
      · simp [hn]
    · by_cases h : i + 1 ≤ j ∧ j < i + 1 + vs.length ∧ j < n
      · have h' : i ≤ j ∧ j < i + (vs.length + 1) ∧ j < n := by omega
        have e : j - i = (j - (i + 1)) + 1 := by omega
        simp only [h, h', dif_pos, and_self, e, List.getElem_cons_succ]
      · have h' : ¬ (i ≤ j ∧ j < i + (vs.length + 1) ∧ j < n) := by omega
        rw [dif_neg h, dif_neg h', if_neg (fun e => hij e.1)]

@[simp] theorem takeCells_length {n : Nat} (a : Vector (Val 8) n) (m : Nat) : (takeCells a m).length = min m n := by
  simp [takeCells]

theorem takeCells_getElem {n : Nat} (a : Vector (Val 8) n) (m i : Nat) (h : i < (takeCells a m).length) :
    (takeCells a m)[i] = readCell a i := by
  have hn : i < n := by simp at h; omega
  simp [takeCells, readCell, hn]

@[simp] theorem takeCells_zero {n : Nat} (a : Vector (Val 8) n) : takeCells a 0 = [] := by simp [takeCells]

theorem takeCells_getElem? {n : Nat} (a : Vector (Val 8) n) {m i : Nat} (hi : i < m) (hn : m ≤ n) :
    (takeCells a m)[i]? = some (readCell a i) := by
  have h : i < (takeCells a m).length := by simp; omega
  rw [List.getElem?_eq_getElem h, takeCells_getElem]

/-- A reading of the first elements: the byte of each element that holds one. -/
theorem valuesFrom_takeCells {n : Nat} (a : Vector (Val 8) n) (k j : Nat) {m i : Nat} {b : Byte} (hi : i < m) (hn : m ≤ n)
    (h : readCell a i = .known b) : (valuesFrom k j (takeCells a m))[i]? = some b :=
  valuesFrom_getElem?_known k j (by rw [takeCells_getElem? a hi hn, h])

/-- The first elements are exactly the string that was written there. -/
theorem takeCells_writeCells {n : Nat} (a : Vector (Val 8) n) (vs : List (Val 8)) (h : vs.length ≤ n) :
    takeCells (writeCells a 0 vs) vs.length = vs := by
  apply List.ext_getElem
  · simp [h]
  · intro i h1 h2
    rw [takeCells_getElem, readCell_writeCells]
    have hi : 0 ≤ i ∧ i < 0 + vs.length ∧ i < n := by omega
    rw [dif_pos hi]
    simp

/-- Elements known to hold bytes are a string of known bytes. -/
theorem takeCells_eq_knownCells {n : Nat} (a : Vector (Val 8) n) (bs : List Byte) (hn : bs.length ≤ n)
    (h : ∀ i (hi : i < bs.length), readCell a i = .known bs[i]) : takeCells a bs.length = knownCells bs := by
  apply List.ext_getElem
  · simp [hn]
  · intro i h1 h2
    rw [takeCells_getElem]
    have hi : i < bs.length := by simpa using h2
    simp [knownCells, h i hi]

/-! ### Bytes of the checksum and of the header -/

@[simp] theorem hiByte_append_loByte (c : Half) : hiByte c ++ loByte c = c := by
  ext i hi
  simp only [BitVec.getElem_append, hiByte, loByte, BitVec.getElem_extractLsb']
  by_cases h : i < 8
  · simp [h, BitVec.getLsbD_eq_getElem hi]
  · have e : 8 + (i - 8) = i := by omega
    simp [h, e, BitVec.getLsbD_eq_getElem hi]

theorem lengthByte_toNat {n : Nat} (h : n ≤ payloadCap) : (lengthByte n).toNat = headerLen + n := by
  simp only [lengthByte, BitVec.toNat_ofNat]
  simp only [payloadCap_eq, headerLen_eq] at *
  omega

/-! ### The encoder -/

@[simp] theorem State.frameCells_length (cmd : Byte) (payload : List (Val 8)) (s : State) :
    (s.frameCells cmd payload).length = payload.length + overhead := by
  simp [State.frameCells]

theorem fitsFrame_iff (n : Nat) : fitsFrame n = true ↔ n ≤ payloadCap := by
  simp only [fitsFrame, Bool.and_eq_true, decide_eq_true_eq, payloadCap_eq, overhead_eq, txCap_eq]
  omega

/-- R151, R152: everything `Encode` can do. -/
theorem encodeFrame_cases (cmd : Byte) (payload : List (Val 8)) (s : State) :
    (payload.length ≤ payloadCap ∧
      encodeFrame cmd payload s =
        (.ok, { s.drawn with
          txb := writeCells s.txb 0 (s.frameCells cmd payload), txLen := BitVec.ofNat 7 (payload.length + overhead) })) ∨
    (payloadCap < payload.length ∧ encodeFrame cmd payload s = (.encodeTooLong, s)) := by
  by_cases h : payload.length ≤ payloadCap
  · left; exact ⟨h, by simp [encodeFrame, (fitsFrame_iff _).2 h]⟩
  · right
    refine ⟨by omega, ?_⟩
    have : fitsFrame payload.length = false := by
      rw [← Bool.not_eq_true, fitsFrame_iff]; exact h
    simp [encodeFrame, this]

theorem encodeFrame_ok {cmd : Byte} {payload : List (Val 8)} (s : State) (h : payload.length ≤ payloadCap) :
    encodeFrame cmd payload s =
      (.ok, { s.drawn with
        txb := writeCells s.txb 0 (s.frameCells cmd payload), txLen := BitVec.ofNat 7 (payload.length + overhead) }) := by
  rcases encodeFrame_cases cmd payload s with ⟨_, e⟩ | ⟨h', _⟩
  · exact e
  · omega

theorem encodeFrame_tooLong {cmd : Byte} {payload : List (Val 8)} (s : State) (h : payloadCap < payload.length) :
    encodeFrame cmd payload s = (.encodeTooLong, s) := by
  rcases encodeFrame_cases cmd payload s with ⟨h', _⟩ | ⟨_, e⟩
  · omega
  · exact e

/-- R153, R80: after an encode of known bytes the frame to transmit is the wire frame, byte for byte. -/
theorem txFrame_encodeFrame {cmd : Byte} {bs : List Byte} (s : State) (h : bs.length ≤ payloadCap) :
    (encodeFrame cmd (knownCells bs) s).2.txFrame = wireFrame s.params cmd bs := by
  have hl : (knownCells bs).length ≤ payloadCap := by simpa using h
  have hlen : (BitVec.ofNat 7 ((knownCells bs).length + overhead)).toNat = (s.frameCells cmd (knownCells bs)).length := by
    simp only [State.frameCells_length, BitVec.toNat_ofNat, knownCells_length, payloadCap_eq, overhead_eq] at *
    omega
  have hcap : (s.frameCells cmd (knownCells bs)).length ≤ 64 := by
    simp only [State.frameCells_length, knownCells_length, payloadCap_eq, overhead_eq] at *
    omega
  have htake : takeCells (writeCells s.txb 0 (s.frameCells cmd (knownCells bs)))
      (BitVec.ofNat 7 ((knownCells bs).length + overhead)).toNat = s.frameCells cmd (knownCells bs) := by
    rw [hlen]; exact takeCells_writeCells _ _ hcap
  rw [encodeFrame_ok s hl]
  simp only [State.txFrame]
  rw [htake]
  simp [State.frameCells, State.encodeCrc, wireFrame, valuesFrom_append]

/-- R80, R152, R153: the elements of the transmit buffer after a frame of `n` payload elements was laid out in it. -/
theorem readCell_frame {n : Nat} {payload : List (Val 8)} (s : State) (txb : Vector (Val 8) 64) (cmd : Byte) (hn : payload.length = n)
    (hcap : n ≤ payloadCap) :
    let txb' := writeCells txb 0 (s.frameCells cmd payload)
    readCell txb' 0 = .known s.params.preamble ∧ readCell txb' 1 = .known (lengthByte n) ∧ readCell txb' 2 = .known cmd ∧
      (∀ i v, payload[i]? = some v → readCell txb' (3 + i) = v) ∧
      readCell txb' (3 + n) = .known (hiByte (s.encodeCrc cmd payload)) ∧
      readCell txb' (4 + n) = .known (loByte (s.encodeCrc cmd payload)) ∧
      (∀ i, n + 5 ≤ i → readCell txb' i = readCell txb i) := by
  subst hn
  have hl : (s.frameCells cmd payload).length = payload.length + 5 := by simp
  simp only [payloadCap_eq] at hcap
  refine ⟨?_, ?_, ?_, fun i v hv => ?_, ?_, ?_, fun i hi => ?_⟩
  all_goals rw [readCell_writeCells]
  · rw [dif_pos (by simp)]; simp [State.frameCells]
  · rw [dif_pos (by simp)]; simp [State.frameCells]
  · rw [dif_pos (by simp)]; simp [State.frameCells]
  · obtain ⟨hi, hv⟩ := List.getElem?_eq_some_iff.1 hv
    rw [dif_pos (by omega)]
    simp only [State.frameCells, Nat.sub_zero, Nat.add_comm 3, List.getElem_cons_succ, List.getElem_append, hi, dif_pos, hv]
  · rw [dif_pos (by omega)]; simp [State.frameCells, Nat.add_comm 3]
  · rw [dif_pos (by omega)]; simp [State.frameCells, Nat.add_comm 4]
  · rw [dif_neg (by omega)]

/-! ### Port events -/

@[simp] theorem nextPoll_cons {s : State} {a : Option Byte} {t : List (Option Byte)} (h : s.rx = a :: t) : nextPoll s = a := by
  simp [nextPoll, h]

@[simp] theorem nextAck_cons {s : State} {a : Ack} {t : List Ack} (h : s.acks = a :: t) : nextAck s = a := by
  simp [nextAck, h]

@[simp] theorem appBytes_length (m : Nat) (s : State) : (appBytes m s).length = m := by
  simp [appBytes]; omega

/-- The application's planned bytes are its answer when it has planned enough. -/
theorem appBytes_of_le {m : Nat} {s : State} (h : m ≤ s.app.length) : appBytes m s = s.app.take m := by
  have : m - s.app.length = 0 := by omega
  simp [appBytes, this]

/-! ### The checksum of a held frame -/

/-- R140, R146: for a frame held with known bytes the range is `length`, `command` and the payload. -/
theorem frameRange_of_held {s : State} {l cmd : Byte} {bs : List Byte} (hl : s.fLen = .known l) (hc : s.fCmd = .known cmd)
    (hlen : l.toNat = headerLen + bs.length) (hn : bs.length ≤ payloadCap)
    (hp : ∀ i (hi : i < bs.length), readCell s.fPay i = .known bs[i]) : s.frameRange = l :: cmd :: bs := by
  have htake : s.fPay.toList.take bs.length = knownCells bs := by
    have := takeCells_eq_knownCells s.fPay bs hn hp
    simpa [takeCells] using this
  simp only [State.frameRange, State.frameImage, hl, hc, valuesFrom_cons, Val.value_known, hlen, headerLen]
  rw [Nat.add_comm 2, List.take_succ_cons, List.take_succ_cons, ← valuesFrom_take, htake, valuesFrom_knownCells]

/-- R140, R146: the range of a held frame, whatever its `length` byte: the first `length` bytes of `length`, `command`, payload. -/
theorem frameRange_eq {s : State} {l cmd : Byte} {bs : List Byte} (hl : s.fLen = .known l) (hc : s.fCmd = .known cmd)
    (hlen : bs.length = payloadDue l) (hn : bs.length ≤ payloadCap) (hp : ∀ i (hi : i < bs.length), readCell s.fPay i = .known bs[i]) :
    s.frameRange = (l :: cmd :: bs).take l.toNat := by
  simp only [payloadDue, headerLen_eq] at hlen
  by_cases h : 2 ≤ l.toNat
  · rw [frameRange_of_held hl hc (by simp only [headerLen_eq]; omega) hn hp, List.take_of_length_le (by simp only [List.length_cons]; omega)]
  · have hb : bs = [] := List.length_eq_zero_iff.1 (by omega)
    subst hb
    simp only [State.frameRange, State.frameImage, hl, hc, valuesFrom_cons, Val.value_known]
    rcases (by omega : l.toNat = 0 ∨ l.toNat = 1) with h | h <;> simp [h]

/-- R141: the verdict on a held frame. -/
theorem crcOk_eq {s : State} {l cmd hi lo : Byte} {bs : List Byte} (hl : s.fLen = .known l) (hc : s.fCmd = .known cmd)
    (hhi : s.fCrcHi = .known hi) (hlo : s.fCrcLo = .known lo) (hlen : bs.length = payloadDue l) (hn : bs.length ≤ payloadCap)
    (hp : ∀ i (hi : i < bs.length), readCell s.fPay i = .known bs[i]) :
    s.crcOk = decide (pCrc s.params.crc ((l :: cmd :: bs).take l.toNat) = hi ++ lo) := by
  simp only [State.crcOk, frameRange_eq hl hc hlen hn hp, State.frameCrc, hhi, hlo, Val.value_known]

/-! ### The operands -/

/-- R25: `[ARG[0], …, ARG[n-1]]` has `n` elements, for `n ≤ 26`. -/
theorem State.argCells_length {s : State} (h : s.reqLen.toNat ≤ payloadCap) : s.argCells.length = s.reqLen.toNat := by
  simp only [payloadCap_eq] at h
  simp only [State.argCells, takeCells_length]
  omega

theorem State.argCells_getElem? {s : State} {i : Nat} (h : s.reqLen.toNat ≤ payloadCap) (hi : i < s.reqLen.toNat) :
    s.argCells[i]? = some (readCell s.arg i) := takeCells_getElem? s.arg hi h

/-- A reading of the operand bytes: the byte of each element that the host has written. -/
theorem State.valuesFrom_argCells {s : State} (k : Nat) {i : Nat} {b : Byte} (h : s.reqLen.toNat ≤ payloadCap) (hi : i < s.reqLen.toNat)
    (hb : readCell s.arg i = .known b) : (valuesFrom k 0 s.argCells)[i]? = some b :=
  valuesFrom_takeCells s.arg k 0 hi h hb

/-! ### The host's register space -/

@[simp] theorem State.frameView_of_fvalid {s : State} (h : s.fvalid = true) (v : Val 8) : s.frameView v = v := by
  simp [State.frameView, h]

@[simp] theorem State.frameView_of_not_fvalid {s : State} (h : s.fvalid = false) (v : Val 8) : s.frameView v = .unspec := by
  simp [State.frameView, h]

end Sys2Proof.Machine
end

