-- ==== Sys2Proof/Laws/Block.lean ====
section
/-! SUPPORT. The machine's step, said once for each position of the block (TSTATE and DSTATE) and each turn of the host, and runs of several
steps. Later proofs cite these and do not unfold the step. -/

namespace Sys2Proof.Machine

/-! ### Turns -/

theorem step_of_idle_host {s : State} (hh : s.host = []) (hb : s.busy = true) : step s = blockStep s := by
  simp [step, nextTurn, hh, blockTurn, hb]

theorem step_of_block {s : State} {rest : List HostAct} (hh : s.host = .block :: rest) (hb : s.busy = true) :
    step s = blockStep { s with host := rest } := by
  simp [step, nextTurn, hh, hostTurn, blockTurn, hb]

/-- R22: the `CTRL` write that starts an operation. -/
theorem step_of_ctrlWrite {s : State} {w : Word} {rest : List HostAct} (hh : s.host = .wr 0#8 w :: rest) (hb : s.busy = false) :
    step s = exec (decode s.params (.ctrl w)) { s with host := rest } := by
  simp [step, nextTurn, hh, hostTurn, hostWrite, hb]

/-- Everything a step of the machine can be: the block's own step, the start of an operation, a host access, reset, or nothing. -/
theorem step_cases (s : State) :
    (∃ h, (s.host = h ∨ s.host = .block :: h) ∧ s.busy = true ∧ step s = blockStep { s with host := h }) ∨
    (∃ h w, s.host = .wr 0#8 w :: h ∧ s.busy = false ∧ step s = exec (decodeCtrl w) { s with host := h }) ∨
    (∃ h n v, s.host = .wr n v :: h ∧ step s = .next (({ s with host := h } : State).hostStore n v)) ∨
    (∃ h n, s.host = .rd n :: h ∧ step s = .next (({ s with host := h } : State).hostRead n)) ∨
    (∃ h, s.host = .reset :: h ∧ step s = .next (({ s with host := h } : State).hardReset)) ∨
    (∃ h, (s.host = h ∨ s.host = .block :: h) ∧ s.busy = false ∧ step s = .next { s with host := h }) := by
  have free : s.busy ≠ true → s.busy = false := by simp
  cases hh : s.host with
  | nil =>
    by_cases hb : s.busy = true
    · have e : ({ s with host := [] } : State) = s := by rw [← hh]
      exact .inl ⟨[], .inl rfl, hb, by rw [e]; exact step_of_idle_host hh hb⟩
    · refine .inr (.inr (.inr (.inr (.inr ⟨[], .inl rfl, free hb, ?_⟩))))
      have e : ({ s with host := [] } : State) = s := by rw [← hh]
      rw [e]
      simp only [step, nextTurn, hh, blockTurn, if_neg hb]
  | cons a h =>
    cases a with
    | wr n v =>
      by_cases hn : n.toNat = 0
      · have hn0 : n = 0#8 := BitVec.eq_of_toNat_eq (by simpa using hn)
        subst hn0
        by_cases hb : s.busy = true
        · refine .inr (.inr (.inl ⟨h, _, v, rfl, ?_⟩))
          simp [step, nextTurn, hh, hostTurn, hostWrite, hb, State.hostStore]
        · exact .inr (.inl ⟨h, v, rfl, free hb, step_of_ctrlWrite hh (free hb)⟩)
      · refine .inr (.inr (.inl ⟨h, n, v, rfl, ?_⟩))
        simp [step, nextTurn, hh, hostTurn, hostWrite, hn]
    | rd n => exact .inr (.inr (.inr (.inl ⟨h, n, rfl, by simp [step, nextTurn, hh, hostTurn]⟩)))
    | reset => exact .inr (.inr (.inr (.inr (.inl ⟨h, rfl, by simp [step, nextTurn, hh, hostTurn]⟩))))
    | block =>
      by_cases hb : s.busy = true
      · exact .inl ⟨h, .inr rfl, hb, step_of_block hh hb⟩
      · refine .inr (.inr (.inr (.inr (.inr ⟨h, .inr rfl, free hb, ?_⟩))))
        simp only [step, nextTurn, hh, hostTurn, blockTurn, if_neg hb]

/-! ### Positions of the block -/

theorem blockStep_writeRequest {s : State} (h : s.tstate = .writeRequest) : blockStep s = .next (writeRequestStep s) := by
  simp [blockStep, h]

theorem blockStep_reserve {s : State} (h : s.tstate = .reserve) : blockStep s = .next (reserveStep s) := by simp [blockStep, h]

theorem blockStep_poll {s : State} (h : s.tstate = .poll) : blockStep s = decodeStep s := by simp [blockStep, h]

theorem blockStep_appGet {s : State} {c : Byte} {m : PayloadLen} (h : s.tstate = .appGet c m) :
    blockStep s = .next (appGetStep c m s) := by simp [blockStep, h]

theorem blockStep_appSet {s : State} {c : Byte} {m : PayloadLen} (h : s.tstate = .appSet c m) :
    blockStep s = .next (appSetStep c m s) := by simp [blockStep, h]

theorem blockStep_writeReply {s : State} {r : ResultCode} (h : s.tstate = .writeReply r) :
    blockStep s = .next (writeReplyStep r s) := by simp [blockStep, h]

/-! ### The decoder's step -/

/-- The condition under which a `DecodeStep` polls (R113, R114). -/
def Polls (s : State) : Prop :=
  s.dstate ≠ .idle ∧ ¬ (s.dstate = .readPayload ∧ s.idx = payloadCap) ∧ s.ticks ≠ 0#32

theorem decodeStep_polls {s : State} (h : Polls s) : decodeStep s = pollStep s := by
  obtain ⟨h1, h2, h3⟩ := h
  simp only [decodeStep, if_neg h1, if_neg h2, if_neg h3]

/-- R115. -/
theorem decodeStep_none {s : State} {t : List (Option Byte)} (h : Polls s) (hr : s.rx = none :: t) :
    decodeStep s =
      .next { s with rx := t, draws := s.draws + 1, ticks := s.ticks - 1, trace := .noByte :: .poll none :: s.trace } := by
  simp [decodeStep_polls h, pollStep, portPoll, nextPoll, hr, portNoByte, State.drawn]

/-- R116 to R120. -/
theorem decodeStep_some {s : State} {b : Byte} {t : List (Option Byte)} (h : Polls s) (hr : s.rx = some b :: t) :
    decodeStep s = takeByte b { s with rx := t, draws := s.draws + 1, trace := .poll (some b) :: s.trace } := by
  simp [decodeStep_polls h, pollStep, portPoll, nextPoll, hr, State.drawn]

/-- The operations that run a decode, by their code (R124, R171, R178, R191). -/
def Decodes (s : State) : Prop := s.op = opDecode ∨ s.op = opRequestData ∨ s.op = opSendAction ∨ s.op = opHandle

theorem afterDecode_decode {s : State} (h : s.op = opDecode) (c : ResultCode) : afterDecode c s = .next (s.finish c) := by
  rw [afterDecode, if_pos h]

theorem afterDecode_requestData {s : State} (h : s.op = opRequestData) (c : ResultCode) :
    afterDecode c s = .next (requestDataReply c s) := by
  rw [afterDecode, h, if_neg (by decide), if_pos rfl]

theorem afterDecode_sendAction {s : State} (h : s.op = opSendAction) (c : ResultCode) :
    afterDecode c s = .next (sendActionReply c s) := by
  rw [afterDecode, h, if_neg (by decide), if_neg (by decide), if_pos rfl]

theorem afterDecode_handle {s : State} (h : s.op = opHandle) (c : ResultCode) : afterDecode c s = handleFrame c s := by
  rw [afterDecode, h, if_neg (by decide), if_neg (by decide), if_neg (by decide), if_pos rfl]

/-- R122, R232: a decode that fails ends its operation with its code, whichever operation runs it. -/
theorem afterDecode_failed {s : State} {c : ResultCode} (h : Decodes s) (hc : c ≠ .ok) : afterDecode c s = .next (s.finish c) := by
  rcases h with h | h | h | h
  · exact afterDecode_decode h c
  · rw [afterDecode_requestData h, requestDataReply, checkReply, if_pos hc]
  · rw [afterDecode_sendAction h, sendActionReply, checkReply, if_pos hc]
  · rw [afterDecode_handle h, handleFrame, if_pos hc]

/-- R120, R122: the last byte of a frame ends the decode, and the operation that runs it goes on. -/
theorem decodeStep_lastByte {s : State} {b : Byte} {t : List (Option Byte)} (hd : s.dstate = .readChecksumLo) (hk : s.ticks ≠ 0#32)
    (hr : s.rx = some b :: t) :
    decodeStep s =
      afterDecode .ok { s with rx := t, draws := s.draws + 1, trace := .poll (some b) :: s.trace, fCrcLo := .known b, fvalid := true,
                               dstate := .idle } := by
  rw [decodeStep_some ⟨by simp [hd], by simp [hd], hk⟩ hr]
  simp [takeByte, hd, takeChecksumLo, State.decodeEnd, State.setFvalid]

/-! ### The checks of a reply (R175) -/

theorem checkReply_malformed {accept : State → State} {s : State} (h : s.crcOk = false) :
    checkReply accept .ok s =
      { s with draws := s.draws + 1, fvalid := false, busy := false, done := true, result := .malformed, tstate := .idle,
               dstate := .idle } := by
  simp [checkReply, h, State.drawn, State.discardFrame, State.setFvalid, State.finish, State.finishFlags]

theorem checkReply_invalidAnswer {accept : State → State} {s : State} (h : s.crcOk = true) (hc : s.frameCmd ≠ s.reqCmd) :
    checkReply accept .ok s =
      { s with draws := s.draws + 1, fvalid := false, busy := false, done := true, result := .invalidAnswer, tstate := .idle,
               dstate := .idle } := by
  simp [checkReply, h, hc, State.drawn, State.discardFrame, State.setFvalid, State.finish, State.finishFlags]

theorem checkReply_accept {accept : State → State} {s : State} (h : s.crcOk = true) (hc : s.frameCmd = s.reqCmd) :
    checkReply accept .ok s = (accept s.drawn).finish .ok := by
  simp [checkReply, h, hc]

/-! ### The frame handed to the transport (R153) -/

theorem State.txFrame_length {s : State} (h : s.txLen.toNat ≤ txCap) : s.txFrame.length = s.txLen.toNat := by
  simp only [txCap_eq] at h
  simp [State.txFrame]
  omega

theorem State.txFrame_getElem? {s : State} {i : Nat} {b : Byte} (h : s.txLen.toNat ≤ txCap) (hi : i < s.txLen.toNat)
    (hb : readCell s.txb i = .known b) : s.txFrame[i]? = some b := valuesFrom_takeCells s.txb _ _ hi h hb

/-! ### Requests and replies -/

/-- R191: a reply of at most 26 payload elements is in the transmit buffer, and nothing else has changed. -/
theorem sendReply_eq {payload : List (Val 8)} (r : ResultCode) (cmd : Byte) (s : State) (h : payload.length ≤ payloadCap) :
    sendReply r cmd payload s =
      { s with draws := s.draws + 1, txb := writeCells s.txb 0 (s.frameCells cmd payload),
               txLen := BitVec.ofNat 7 (payload.length + overhead), tstate := .writeReply r } := by
  rw [sendReply, encodeFrame_ok s h, State.drawn]

theorem txFrame_sendReply {bs : List Byte} (r : ResultCode) (cmd : Byte) (s : State) (h : bs.length ≤ payloadCap) :
    (sendReply r cmd (knownCells bs) s).txFrame = wireFrame s.params cmd bs := txFrame_encodeFrame s h

/-- R171, R178: a request of at most 26 payload elements is in the transmit buffer, and nothing else has changed. -/
theorem sendRequest_eq {payload : List (Val 8)} (s : State) (h : payload.length ≤ payloadCap) :
    sendRequest payload s =
      { s with draws := s.draws + 1, txb := writeCells s.txb 0 (s.frameCells s.reqCmd payload),
               txLen := BitVec.ofNat 7 (payload.length + overhead), tstate := .writeRequest } := by
  rw [sendRequest, encodeFrame_ok s h, State.drawn]

theorem txFrame_sendRequest {bs : List Byte} (s : State) (h : bs.length ≤ payloadCap) :
    (sendRequest (knownCells bs) s).txFrame = wireFrame s.params s.reqCmd bs := txFrame_encodeFrame s h

/-! ### What an instruction leaves alone -/

/-- What no instruction does in its own step: it makes no port event, takes nothing from the outside world, writes no host register and
no `OUT`, and leaves the build alone (R20, R31, R46, R236). -/
structure ExecFrame (s t : State) : Prop where
  params : t.params = s.params
  timeout : t.timeout = s.timeout
  arg : t.arg = s.arg
  out : t.out = s.out
  outLen : t.outLen = s.outLen
  host : t.host = s.host
  rx : t.rx = s.rx
  acks : t.acks = s.acks
  app : t.app = s.app
  trace : t.trace = s.trace
  reads : t.reads = s.reads

theorem encodeFrame_frame (cmd : Byte) (payload : List (Val 8)) (s : State) :
    ∃ k b n, (encodeFrame cmd payload s).2 = { s with draws := k, txb := b, txLen := n } := by
  rcases encodeFrame_cases cmd payload s with ⟨_, e⟩ | ⟨_, e⟩ <;> rw [e]
  · exact ⟨_, _, _, rfl⟩
  · exact ⟨_, _, _, rfl⟩

theorem sendReply_frame (r : ResultCode) (cmd : Byte) (payload : List (Val 8)) (s : State) :
    ∃ k b n, sendReply r cmd payload s = { s with draws := k, txb := b, txLen := n, tstate := .writeReply r } := by
  obtain ⟨k, b, n, e⟩ := encodeFrame_frame cmd payload s
  exact ⟨k, b, n, by rw [sendReply, e]⟩

theorem sendRequest_frame (payload : List (Val 8)) (s : State) :
    ∃ k b n, sendRequest payload s = { s with draws := k, txb := b, txLen := n, tstate := .writeRequest } := by
  obtain ⟨k, b, n, e⟩ := encodeFrame_frame s.reqCmd payload s
  exact ⟨k, b, n, by rw [sendRequest, e]⟩

/-- Every instruction takes a next state, within that frame. -/
theorem exec_frame (i : Instr) (s : State) : ∃ t, exec i s = .next t ∧ ExecFrame s t := by
  have hunsup : ∀ c, ExecFrame s (dispatchUnsupported c s) := fun c => by
    obtain ⟨k, b, n, e⟩ := sendReply_frame .notSupported c [.known s.params.statusNotSupported]
      { s with appStatus := .known s.params.statusNotSupported }
    rw [dispatchUnsupported, e]
    exact ⟨rfl, rfl, rfl, rfl, rfl, rfl, rfl, rfl, rfl, rfl, rfl⟩
  have hreq : ∀ payload op c l, ExecFrame s (sendRequest payload (s.start op c l)) := fun payload op c l => by
    obtain ⟨k, b, n, e⟩ := sendRequest_frame payload (s.start op c l)
    rw [e]
    exact ⟨rfl, rfl, rfl, rfl, rfl, rfl, rfl, rfl, rfl, rfl, rfl⟩
  cases i with
  | validate c l =>
    refine ⟨_, rfl, ?_⟩
    unfold validateFrame
    split <;> exact ⟨rfl, rfl, rfl, rfl, rfl, rfl, rfl, rfl, rfl, rfl, rfl⟩
  | encode c l =>
    refine ⟨_, rfl, ?_⟩
    unfold encodeArgs
    split
    · exact ⟨rfl, rfl, rfl, rfl, rfl, rfl, rfl, rfl, rfl, rfl, rfl⟩
    · obtain ⟨k, b, n, e⟩ := encodeFrame_frame c (s.start opEncode c l).argCells (s.start opEncode c l)
      show ExecFrame s ((encodeFrame c (s.start opEncode c l).argCells (s.start opEncode c l)).2.finish _)
      rw [e]
      exact ⟨rfl, rfl, rfl, rfl, rfl, rfl, rfl, rfl, rfl, rfl, rfl⟩
  | requestData c l =>
    refine ⟨_, rfl, ?_⟩
    unfold requestDataStart
    split
    · exact ⟨rfl, rfl, rfl, rfl, rfl, rfl, rfl, rfl, rfl, rfl, rfl⟩
    split
    · exact ⟨rfl, rfl, rfl, rfl, rfl, rfl, rfl, rfl, rfl, rfl, rfl⟩
    · exact hreq _ _ _ _
  | sendAction c l =>
    refine ⟨_, rfl, ?_⟩
    unfold sendActionStart
    split
    · exact ⟨rfl, rfl, rfl, rfl, rfl, rfl, rfl, rfl, rfl, rfl, rfl⟩
    split
    · exact ⟨rfl, rfl, rfl, rfl, rfl, rfl, rfl, rfl, rfl, rfl, rfl⟩
    · exact hreq _ _ _ _
  | handle c l =>
    refine ⟨_, rfl, ?_⟩
    unfold handleStart
    split <;> exact ⟨rfl, rfl, rfl, rfl, rfl, rfl, rfl, rfl, rfl, rfl, rfl⟩
  | getShutterAction =>
    refine ⟨_, rfl, ?_⟩
    unfold getShutterAction
    split
    · exact ⟨rfl, rfl, rfl, rfl, rfl, rfl, rfl, rfl, rfl, rfl, rfl⟩
    · exact hunsup _
  | unsupported c => exact ⟨_, rfl, hunsup c⟩
  | _ => exact ⟨_, rfl, ⟨rfl, rfl, rfl, rfl, rfl, rfl, rfl, rfl, rfl, rfl, rfl⟩⟩

/-! ### Runs -/

theorem run_succ_of_next {n : Nat} {s t : State} (h : step s = .next t) :
    Sys2Proof.core.run (n + 1) s = Sys2Proof.core.run n t := by
  have e := Host.Core.run.eq_2 Sys2Proof.core s n
  have hs : Sys2Proof.core.step s = .next t := h
  rw [hs] at e
  exact e

theorem run_succ_of_fault {n : Nat} {s : State} {r : Fault} (h : step s = .fault r) :
    Sys2Proof.core.run (n + 1) s = .fault r := by
  have e := Host.Core.run.eq_2 Sys2Proof.core s n
  have hs : Sys2Proof.core.step s = .fault r := h
  rw [hs] at e
  exact e

theorem run_succ_of_refused {n : Nat} {s : State} {r : Refusal} (h : step s = .refused r) :
    Sys2Proof.core.run (n + 1) s = .refused r := by
  have e := Host.Core.run.eq_2 Sys2Proof.core s n
  have hs : Sys2Proof.core.step s = .refused r := h
  rw [hs] at e
  exact e

@[simp] theorem run_zero (s : State) : Sys2Proof.core.run 0 s = .next s := rfl

/-- A run of `m + n` steps is a run of `n` steps after one of `m`. -/
theorem run_add {m n : Nat} {s t : State} (h : Sys2Proof.core.run m s = .next t) :
    Sys2Proof.core.run (m + n) s = Sys2Proof.core.run n t := by
  induction m generalizing s with
  | zero =>
    have e : s = t := by injection h
    rw [e, Nat.zero_add]
  | succ m ih =>
    rw [Nat.add_right_comm]
    cases hs : step s with
    | next u =>
      rw [run_succ_of_next hs] at h ⊢
      exact ih h
    | fault r => rw [run_succ_of_fault hs] at h; cases h
    | refused r => rw [run_succ_of_refused hs] at h; cases h

end Sys2Proof.Machine
end

