-- ==== Sys2Proof/Laws/Decode.lean ====
section
/-! SUPPORT. The fields of a `CTRL` word and the codes of the commands: what the decoders read back from what the encoder writes. -/

namespace Sys2Proof

@[simp] theorem ctrlOp_ctrlWord (op : BitVec 3) (c l : Byte) : ctrlOp (ctrlWord op c l) = op := by
  ext i hi
  have h8 : i < 8 := by omega
  have h16 : i < 16 := by omega
  have h32 : i < 32 := by omega
  simp [ctrlOp, ctrlWord, h8, h16, h32, BitVec.getLsbD_eq_getElem hi]

@[simp] theorem ctrlCmd_ctrlWord (op : BitVec 3) (c l : Byte) : ctrlCmd (ctrlWord op c l) = c := by
  ext i hi
  have h32 : 8 + i < 32 := by omega
  have h16 : 8 + i < 16 := by omega
  have h3 : op.getLsbD (8 + i) = false := BitVec.getLsbD_of_ge _ _ (by omega)
  simp [ctrlCmd, ctrlWord, h32, h16, h3, BitVec.getLsbD_eq_getElem hi]

@[simp] theorem ctrlLen_ctrlWord (op : BitVec 3) (c l : Byte) : ctrlLen (ctrlWord op c l) = l := by
  ext i hi
  have h32 : 16 + i < 32 := by omega
  have e : 16 + i - 8 = 8 + i := by omega
  have h3 : op.getLsbD (16 + i) = false := BitVec.getLsbD_of_ge _ _ (by omega)
  simp [ctrlLen, ctrlWord, h32, h3, e, BitVec.getLsbD_eq_getElem hi]

/-- R90, R99: the three fields are all a `CTRL` word has, its reserved bits apart. -/
theorem ctrlWord_of_fields (w : Word) : ctrlWord (ctrlOp w) (ctrlCmd w) (ctrlLen w) = w &&& 0x00FFFF07#32 := by
  have hb : ∀ i : Fin 32, (ctrlWord (ctrlOp w) (ctrlCmd w) (ctrlLen w)).getLsbD i = (w &&& 0x00FFFF07#32).getLsbD i := by
    intro i
    fin_cases i <;> simp [ctrlWord, ctrlOp, ctrlCmd, ctrlLen]
  ext i hi
  have := hb ⟨i, hi⟩
  simpa [BitVec.getLsbD_eq_getElem hi] using this

/-- Two `CTRL` words that agree outside the reserved bits decode alike (R99). -/
theorem decodeCtrl_congr {w w' : Word} (h : w &&& 0x00FFFF07#32 = w' &&& 0x00FFFF07#32) : decodeCtrl w = decodeCtrl w' := by
  rw [← ctrlWord_of_fields w, ← ctrlWord_of_fields w'] at h
  have ho := congrArg ctrlOp h
  have hc := congrArg ctrlCmd h
  have hl := congrArg ctrlLen h
  simp only [ctrlOp_ctrlWord, ctrlCmd_ctrlWord, ctrlLen_ctrlWord] at ho hc hl
  simp only [decodeCtrl, ho, hc, hl]

end Sys2Proof
end

