-- ==== Sys2Proof/Laws/Inv.lean ====
section
/-! SUPPORT. The invariant (`Sys2Proof.Machine.Inv`) at the points where an operation ends, a decode begins, and a frame is built: what each of
these shared operations needs to give a state that meets it. -/

namespace Sys2Proof.Machine

/-- What the invariant says of the registers that do not depend on where the operation in progress stands. -/
structure RegsOk (s : State) : Prop where
  params_ok : s.params.Ok
  idx_le : s.idx ≤ payloadCap
  txLen_range : s.txLen = 0#7 ∨ (overhead ≤ s.txLen.toNat ∧ s.txLen.toNat ≤ overhead + payloadCap)
  outLen_le : s.outLen.toNat ≤ payloadCap

/-- A held frame is complete (R121). -/
def State.frameOk (s : State) : Prop := s.fvalid = true → s.holdsFrame ∧ s.fCrcHi.isKnown = true ∧ s.fCrcLo.isKnown = true

theorem Inv.regs {s : State} (h : Inv s) : RegsOk s := ⟨h.params_ok, h.idx_le, h.txLen_range, h.outLen_le⟩

theorem Inv.frameOk {s : State} (h : Inv s) : s.frameOk := h.frame_held

/-- The invariant does not look at the host's plan. -/
theorem Inv.withHost {s : State} (h : Inv s) (l : List HostAct) : Inv { s with host := l } :=
  ⟨h.1, h.2, h.3, h.4, h.5, h.6, h.7, h.8, h.9, h.10, h.11, h.12⟩

/-- R231, R39: the state in which an operation has ended. -/
theorem Inv.of_ended {s : State} (hr : RegsOk s) (hf : s.frameOk) (hb : s.busy = false) (ht : s.tstate = .idle) (hd : s.dstate = .idle) :
    Inv s where
  params_ok := hr.params_ok
  idx_le := hr.idx_le
  txLen_range := hr.txLen_range
  outLen_le := hr.outLen_le
  busy_iff := by simp [hb, ht]
  poll_iff := by simp [ht, hd]
  not_busy_done := by simp [hb]
  decoding_invalid := by simp [hd]
  reqLen_le := by simp [ht]
  position := by simp [State.positionFits, ht]
  decode_shape := by simp [State.decodeShape, hd]
  frame_held := hf

theorem Inv.of_finish {s : State} (c : ResultCode) (hr : RegsOk s) (hf : s.frameOk) : Inv (s.finish c) :=
  Inv.of_ended ⟨hr.1, hr.2, hr.3, hr.4⟩ hf rfl rfl rfl

/-- An operation that waits on an event other than a `POLL`. -/
theorem Inv.of_waiting {s : State} (hr : RegsOk s) (hf : s.frameOk) (hb : s.busy = true) (hn : s.done = false) (hd : s.dstate = .idle)
    (ht : s.tstate ≠ .idle) (hp : s.tstate ≠ .poll) (hl : s.op = opRequestData ∨ s.op = opSendAction → s.reqLen.toNat ≤ payloadCap)
    (hpos : s.positionFits) : Inv s where
  params_ok := hr.params_ok
  idx_le := hr.idx_le
  txLen_range := hr.txLen_range
  outLen_le := hr.outLen_le
  busy_iff := by simp [hb, ht]
  poll_iff := by simp [hp, hd]
  not_busy_done := by simp [hn]
  decoding_invalid := by simp [hd]
  reqLen_le := fun _ => hl
  position := hpos
  decode_shape := by simp [State.decodeShape, hd]
  frame_held := hf

/-- An operation that waits on a `POLL`. -/
theorem Inv.of_polling {s : State} (hr : RegsOk s) (hb : s.busy = true) (hn : s.done = false) (hv : s.fvalid = false)
    (ht : s.tstate = .poll) (hd : s.dstate ≠ .idle) (hl : s.op = opRequestData ∨ s.op = opSendAction → s.reqLen.toNat ≤ payloadCap)
    (hpos : s.positionFits) (hs : s.decodeShape) : Inv s where
  params_ok := hr.params_ok
  idx_le := hr.idx_le
  txLen_range := hr.txLen_range
  outLen_le := hr.outLen_le
  busy_iff := by simp [hb, ht]
  poll_iff := by simp [ht, hd]
  not_busy_done := by simp [hn]
  decoding_invalid := fun _ => hv
  reqLen_le := fun _ => hl
  position := hpos
  decode_shape := hs
  frame_held := by simp [hv]

/-- R152: `TX_LEN` after an encode of at most 26 elements. -/
theorem txLen_frame {n : Nat} (h : n ≤ payloadCap) :
    BitVec.ofNat 7 (n + overhead) ≠ 0#7 ∧ overhead ≤ (BitVec.ofNat 7 (n + overhead)).toNat ∧
      (BitVec.ofNat 7 (n + overhead)).toNat ≤ overhead + payloadCap := by
  have e : (BitVec.ofNat 7 (n + overhead)).toNat = n + overhead := by
    simp only [payloadCap_eq] at h
    simp only [BitVec.toNat_ofNat, overhead_eq]
    omega
  simp only [payloadCap_eq, overhead_eq] at *
  refine ⟨fun h0 => ?_, by omega, by omega⟩
  rw [h0] at e
  simp at e

end Sys2Proof.Machine
end

