-- ==== Sys2Proof/Laws/PerInstr.lean ====
section
/-! SUPPORT. The family `TableRow`: what the encoding of each instruction is as a row of the opcode table, one lemma per constructor. -/

namespace Sys2Proof.Laws.TableRow

/-- R99, R90: the encoder leaves the reserved bits of a `CTRL` word 0. R220, R222: a well-formed instruction is encoded by one of the nine named
command codes exactly if it is one of the nine named commands. -/
def Statement (i : Instr) : Prop :=
  ∀ p : Params, (∀ w, Sys2Proof.encode p i = .ctrl w → w &&& 0xFF0000F8#32 = 0#32) ∧
    (∀ b, Sys2Proof.encode p i = .wire b → wellFormed p i = true → (b ∉ p.codes ↔ i = .unsupported b))

theorem ctrlWord_reserved (op : BitVec 3) (c l : Byte) : ctrlWord op c l &&& 0xFF0000F8#32 = 0#32 := by
  have h : ∀ i : Fin 32, (ctrlWord op c l &&& 0xFF0000F8#32).getLsbD i = (0#32).getLsbD i := by
    intro i
    fin_cases i <;> simp [ctrlWord]
  ext i hi
  simpa [BitVec.getLsbD_eq_getElem hi] using h ⟨i, hi⟩

/-- A host operation's encoding is a `CTRL` word. -/
theorem of_ctrl {i : Instr} {op : BitVec 3} {c l : Byte} (h : ∀ p, Sys2Proof.encode p i = .ctrl (ctrlWord op c l)) : Statement i :=
  fun p => ⟨fun w hw => by rw [h p] at hw; injection hw with hw; rw [← hw]; exact ctrlWord_reserved op c l,
    fun b hb => by rw [h p] at hb; cases hb⟩

/-- A named command's encoding is its code, one of the nine. -/
theorem of_named {i : Instr} {code : Params → Byte} (h : ∀ p, Sys2Proof.encode p i = .wire (code p)) (hm : ∀ p : Params, code p ∈ p.codes)
    (hi : ∀ b, i ≠ .unsupported b) : Statement i := by
  intro p
  refine ⟨fun w hw => ?_, fun b hb _ => ?_⟩
  · rw [h p] at hw
    cases hw
  · rw [h p] at hb
    injection hb with hb
    subst hb
    exact ⟨fun hn => absurd (hm p) hn, fun he => absurd he (hi _)⟩

theorem illegalOp0 (cmd len : Byte) : Statement (.illegalOp0 cmd len) := of_ctrl fun _ => rfl
theorem decode (cmd len : Byte) : Statement (.decode cmd len) := of_ctrl fun _ => rfl
theorem validate (cmd len : Byte) : Statement (.validate cmd len) := of_ctrl fun _ => rfl
theorem encode (cmd len : Byte) : Statement (.encode cmd len) := of_ctrl fun _ => rfl
theorem requestData (cmd len : Byte) : Statement (.requestData cmd len) := of_ctrl fun _ => rfl
theorem sendAction (cmd len : Byte) : Statement (.sendAction cmd len) := of_ctrl fun _ => rfl
theorem handle (cmd len : Byte) : Statement (.handle cmd len) := of_ctrl fun _ => rfl
theorem illegalOp7 (cmd len : Byte) : Statement (.illegalOp7 cmd len) := of_ctrl fun _ => rfl
theorem ident : Statement .ident := of_named (fun _ => rfl) (by simp [Params.codes]) (by simp)
theorem setShutterAction : Statement .setShutterAction := of_named (fun _ => rfl) (by simp [Params.codes]) (by simp)
theorem getShutterAction : Statement .getShutterAction := of_named (fun _ => rfl) (by simp [Params.codes]) (by simp)
theorem setShutterPosition : Statement .setShutterPosition := of_named (fun _ => rfl) (by simp [Params.codes]) (by simp)
theorem getShutterPosition : Statement .getShutterPosition := of_named (fun _ => rfl) (by simp [Params.codes]) (by simp)
theorem setRelay : Statement .setRelay := of_named (fun _ => rfl) (by simp [Params.codes]) (by simp)
theorem getRelay : Statement .getRelay := of_named (fun _ => rfl) (by simp [Params.codes]) (by simp)
theorem setBuzzer : Statement .setBuzzer := of_named (fun _ => rfl) (by simp [Params.codes]) (by simp)
theorem getButton : Statement .getButton := of_named (fun _ => rfl) (by simp [Params.codes]) (by simp)

theorem unsupported (command : Byte) : Statement (.unsupported command) := by
  intro p
  refine ⟨fun w hw => ?_, fun b hb hw => ?_⟩
  · cases hw
  · injection hb with hb
    subst hb
    simpa [wellFormed, isUnassigned] using hw

end Sys2Proof.Laws.TableRow
end

