-- ==== Sys2Proof/Laws/Run.lean ====
section
/-! SUPPORT. A decode over several steps: what a stretch of `POLL` answers makes of the decoder, up to the last byte of an encoded frame. -/

namespace Sys2Proof.Machine

/-- The block runs alone and its decode waits on a `POLL`. -/
structure Polling (s : State) : Prop where
  busy : s.busy = true
  host : s.host = []
  tstate : s.tstate = .poll
  dstate : s.dstate ≠ .idle
  room : ¬ (s.dstate = .readPayload ∧ s.idx = payloadCap)

/-- The answers `as` take the block from `s` to `t`, one step an answer, the decode still in progress: only the decoder's registers, the
tick count and the record have changed, and each failed poll has cost one tick (R112 to R119). -/
structure Progress (s t : State) (as : List (Option Byte)) : Prop where
  run : Sys2Proof.core.run as.length s = .next t
  rx : s.rx = as ++ t.rx
  ticks : t.ticks.toNat + as.count none = s.ticks.toNat
  noBytes : noByteCount t.trace = noByteCount s.trace + as.count none
  trace : ∃ polls, t.trace = polls ++ s.trace ∧ ∀ e ∈ polls, e = .noByte ∨ ∃ a, e = .poll a
  same : t = { s with rx := t.rx, draws := t.draws, ticks := t.ticks, trace := t.trace, fLen := t.fLen, fCmd := t.fCmd, fPay := t.fPay,
                      fCrcHi := t.fCrcHi, idx := t.idx, dstate := t.dstate }

theorem Progress.refl (s : State) : Progress s s [] := ⟨rfl, rfl, by simp, by simp, ⟨[], rfl, by simp⟩, rfl⟩

theorem Progress.trans {s t u : State} {as bs : List (Option Byte)} (h : Progress s t as) (g : Progress t u bs) :
    Progress s u (as ++ bs) where
  run := by rw [List.length_append, run_add h.run]; exact g.run
  rx := by rw [h.rx, g.rx, List.append_assoc]
  ticks := by rw [List.count_append, ← h.ticks, ← g.ticks]; omega
  noBytes := by rw [List.count_append, g.noBytes, h.noBytes]; omega
  trace := by
    obtain ⟨p, hp, hp'⟩ := h.trace
    obtain ⟨q, hq, hq'⟩ := g.trace
    refine ⟨q ++ p, by rw [hq, hp, List.append_assoc], fun e he => ?_⟩
    rcases List.mem_append.1 he with h | h
    · exact hq' e h
    · exact hp' e h
  same := by rw [g.same, h.same]

theorem Progress.polling {s t : State} {as : List (Option Byte)} (h : Progress s t as) (hs : Polling s) (hd : t.dstate ≠ .idle)
    (hr : ¬ (t.dstate = .readPayload ∧ t.idx = payloadCap)) : Polling t :=
  ⟨by rw [h.same]; exact hs.busy, by rw [h.same]; exact hs.host, by rw [h.same]; exact hs.tstate, hd, hr⟩

theorem step_of_polling {s : State} (h : Polling s) : step s = decodeStep s := by
  rw [step_of_idle_host h.host h.busy, blockStep_poll h.tstate]

theorem ticks_ne_zero {k : Word} (h : 0 < k.toNat) : k ≠ 0#32 := by
  intro e
  rw [e] at h
  simp at h

theorem ticks_pred {k : Word} (h : k ≠ 0#32) : (k - 1#32).toNat + 1 = k.toNat := by
  have h0 : k.toNat ≠ 0 := fun e => h (BitVec.eq_of_toNat_eq (by simpa using e))
  have := k.isLt
  simp only [BitVec.toNat_sub, BitVec.toNat_ofNat]
  omega

/-- R115: one failed poll. -/
theorem Progress.of_failedPoll {s : State} {t : List (Option Byte)} (h : Polling s) (hk : s.ticks ≠ 0#32) (hr : s.rx = none :: t) :
    Progress s { s with rx := t, draws := s.draws + 1, ticks := s.ticks - 1, trace := .noByte :: .poll none :: s.trace } [none] where
  run := by
    show Sys2Proof.core.run (0 + 1) s = _
    rw [run_succ_of_next (by rw [step_of_polling h]; exact decodeStep_none ⟨h.dstate, h.room, hk⟩ hr), run_zero]
  rx := hr
  ticks := by simpa using ticks_pred hk
  noBytes := by simp [noByteCount]
  trace := ⟨[.noByte, .poll none], rfl, by simp⟩
  same := rfl

/-- Failed polls in a row. -/
theorem Progress.of_failedPolls {s : State} {j : Nat} {t : List (Option Byte)} (h : Polling s) (hk : j ≤ s.ticks.toNat)
    (hr : s.rx = List.replicate j none ++ t) :
    ∃ u, Progress s u (List.replicate j none) ∧ u.rx = t ∧
      u = { s with rx := u.rx, draws := u.draws, ticks := u.ticks, trace := u.trace } ∧
      u.trace = (List.replicate j [PortEvent.noByte, PortEvent.poll none]).flatten ++ s.trace := by
  induction j generalizing s with
  | zero => exact ⟨s, Progress.refl s, by simpa using hr, rfl, by simp⟩
  | succ j ih =>
    have hk0 : s.ticks ≠ 0#32 := ticks_ne_zero (by omega)
    have hp := Progress.of_failedPoll h hk0 hr
    have hk' := ticks_pred hk0
    obtain ⟨u, hu, hrx, hsame, htr⟩ := ih (hp.polling h h.dstate h.room) (by show j ≤ (s.ticks - 1#32).toNat; omega) rfl
    refine ⟨u, hp.trans hu, hrx, hsame, ?_⟩
    rw [htr]
    show _ ++ ([PortEvent.noByte, PortEvent.poll Option.none] ++ s.trace) = _
    rw [← List.append_assoc, List.replicate_succ', List.flatten_append]
    simp

/-- The answers up to and including the first byte. -/
theorem filterMap_cons_split {as : List (Option Byte)} {b : Byte} {bs : List Byte} (h : as.filterMap id = b :: bs) :
    ∃ j as', as = List.replicate j none ++ some b :: as' ∧ as'.filterMap id = bs := by
  induction as with
  | nil => simp at h
  | cons a as ih =>
    cases a with
    | none =>
      simp at h
      obtain ⟨j, as', e, e'⟩ := ih h
      exact ⟨j + 1, as', by rw [e]; rfl, e'⟩
    | some c =>
      simp at h
      exact ⟨0, as, by rw [h.1]; rfl, h.2⟩

/-- Failed polls, then a byte that does not end the decode. -/
theorem Progress.of_byte {s : State} {b : Byte} {bs : List Byte} {as rest : List (Option Byte)} (h : Polling s)
    (hf : as.filterMap id = b :: bs) (hc : as.count none < s.ticks.toNat) (hr : s.rx = as ++ rest)
    (hb : ∀ u : State, u.dstate = s.dstate → u.params = s.params → u.idx = s.idx → u.fLen = s.fLen →
      ∃ v, takeByte b u = .next v ∧ v = { u with draws := v.draws, fLen := v.fLen, fCmd := v.fCmd, fPay := v.fPay, fCrcHi := v.fCrcHi,
                                                 idx := v.idx, dstate := v.dstate }) :
    ∃ u v as₁ as₂, as = as₁ ++ as₂ ∧ as₂.filterMap id = bs ∧ Progress s v as₁ ∧ takeByte b u = .next v ∧
      u = { s with rx := u.rx, draws := u.draws, ticks := u.ticks, trace := u.trace } ∧ as₂.count none < v.ticks.toNat ∧
      v.rx = as₂ ++ rest := by
  obtain ⟨j, as₂, e, e'⟩ := filterMap_cons_split hf
  subst e
  simp only [List.count_append, List.count_replicate_self, List.count_cons, beq_iff_eq, reduceCtorEq, if_false, Nat.add_zero] at hc
  have hr' : s.rx = List.replicate j none ++ (some b :: (as₂ ++ rest)) := by rw [hr]; simp
  obtain ⟨w, hw, hwr, hws, hwt⟩ := Progress.of_failedPolls h (by omega) hr'
  have htk := hw.ticks
  simp only [List.count_replicate_self] at htk
  have hwd : w.dstate = s.dstate := by rw [hws]
  have hwi : w.idx = s.idx := by rw [hws]
  have hpw : Polling w := hw.polling h (by rw [hwd]; exact h.dstate) (by rw [hwd, hwi]; exact h.room)
  have hk : w.ticks ≠ 0#32 := ticks_ne_zero (by omega)
  let u : State := { w with rx := as₂ ++ rest, draws := w.draws + 1, trace := .poll (some b) :: w.trace }
  obtain ⟨v, hv, hvs⟩ := hb u hwd (by show w.params = _; rw [hws]) hwi (by show w.fLen = _; rw [hws])
  have hstep : step w = .next v := by rw [step_of_polling hpw, decodeStep_some ⟨hpw.dstate, hpw.room, hk⟩ hwr]; exact hv
  have hvr : v.rx = as₂ ++ rest := by rw [hvs]
  have hvt : v.ticks = w.ticks := by rw [hvs]
  have hlast : Progress w v [some b] :=
    { run := by
        show Sys2Proof.core.run (0 + 1) w = _
        rw [run_succ_of_next hstep, run_zero]
      rx := by rw [hwr, hvr]; rfl
      ticks := by rw [hvt]; simp
      noBytes := by rw [hvs]; simp [noByteCount, u]
      trace := ⟨[.poll (some b)], by rw [hvs]; rfl, by simp⟩
      same := by rw [hvs] }
  refine ⟨u, v, List.replicate j none ++ [some b], as₂, by simp, e', hw.trans hlast, hv, ?_, by rw [hvt]; omega, hvr⟩
  show ({ w with rx := _, draws := _, trace := _ } : State) = _
  rw [hws]

/-! ### The stages of a frame (R116 to R119) -/

/-- R116: preamble bytes change nothing. -/
theorem Progress.of_preambles {s : State} {k : Nat} {bs : List Byte} {as rest : List (Option Byte)} (h : Polling s)
    (hd : s.dstate = .seekLength) (hf : as.filterMap id = List.replicate k s.params.preamble ++ bs) (hc : as.count none < s.ticks.toNat)
    (hr : s.rx = as ++ rest) :
    ∃ v as₁ as₂, as = as₁ ++ as₂ ∧ as₂.filterMap id = bs ∧ Progress s v as₁ ∧ as₂.count none < v.ticks.toNat ∧ v.rx = as₂ ++ rest ∧
      v = { s with rx := v.rx, draws := v.draws, ticks := v.ticks, trace := v.trace } := by
  induction k generalizing s as with
  | zero => exact ⟨s, [], as, rfl, by simpa using hf, Progress.refl s, hc, hr, rfl⟩
  | succ k ih =>
    obtain ⟨u, v, as₁, as₂, e, hf', hp, hv, hu, hc', hr'⟩ := Progress.of_byte h hf hc hr (fun u h1 h2 _ _ => by
      refine ⟨takeLength s.params.preamble u, by simp [takeByte, h1, hd], ?_⟩
      rw [takeLength, if_pos (by rw [h2])])
    have hvu : v = u := by
      have h1 : u.dstate = .seekLength := by rw [hu]; exact hd
      have h2 : u.params = s.params := by rw [hu]
      simp only [takeByte, h1, takeLength, h2, if_pos] at hv
      injection hv with e
      exact e.symm
    subst hvu
    have h2 : v.params = s.params := by rw [hu]
    have h3 : v.dstate = .seekLength := by rw [hu]; exact hd
    obtain ⟨w, bs₁, bs₂, e', g1, g2, g3, g4, g5⟩ := ih (hp.polling h (by simp [h3]) (by simp [h3])) h3 (by rw [h2]; exact hf') hc' hr'
    exact ⟨w, as₁ ++ bs₁, bs₂, by rw [e, e', List.append_assoc], g1, hp.trans g2, g3, g4, by rw [g5, hu]⟩

/-- R118: the payload bytes still due, up to the last. -/
theorem Progress.of_payload {s : State} {l : Byte} {ps bs : List Byte} {as rest : List (Option Byte)} (h : Polling s)
    (hd : s.dstate = .readPayload) (hl : s.fLen = .known l) (hi : s.idx + ps.length = payloadDue l) (hcap : payloadDue l ≤ payloadCap)
    (hne : ps ≠ []) (hf : as.filterMap id = ps ++ bs) (hc : as.count none < s.ticks.toNat) (hr : s.rx = as ++ rest) :
    ∃ v as₁ as₂, as = as₁ ++ as₂ ∧ as₂.filterMap id = bs ∧ Progress s v as₁ ∧ as₂.count none < v.ticks.toNat ∧ v.rx = as₂ ++ rest ∧
      v.dstate = .readChecksumHi ∧ (∀ i (hi : i < ps.length), readCell v.fPay (s.idx + i) = .known ps[i]) ∧
      (∀ i, i < s.idx ∨ s.idx + ps.length ≤ i → readCell v.fPay i = readCell s.fPay i) ∧
      v = { s with rx := v.rx, draws := v.draws, ticks := v.ticks, trace := v.trace, fPay := v.fPay, idx := v.idx, dstate := v.dstate } := by
  induction ps generalizing s as with
  | nil => exact absurd rfl hne
  | cons p ps ih =>
    simp only [List.length_cons, payloadCap_eq] at hi hcap
    have hdue : payloadDue l = l.toNat - 2 := rfl
    obtain ⟨u, v, as₁, as₂, e, hf', hp, hv, hu, hc', hr'⟩ := Progress.of_byte h hf hc hr (fun u h1 _ _ h4 => by
      refine ⟨takePayload p u, by simp [takeByte, h1, hd], rfl⟩)
    have h1 : u.dstate = .readPayload := by rw [hu]; exact hd
    have h2 : u.fLen = .known l := by rw [hu]; exact hl
    have h3 : u.idx = s.idx := by rw [hu]
    have h4 : u.fPay = s.fPay := by rw [hu]
    simp only [takeByte, h1] at hv
    injection hv with hv
    simp only [takePayload, h2, h3, h4, Val.value_known, headerLen_eq] at hv
    have hpay : v.fPay = writeCell s.fPay s.idx (.known p) := by rw [← hv]
    have hidx : v.idx = s.idx + 1 := by rw [← hv]
    have hfl : v.fLen = .known l := by rw [← hv]; exact h2
    have hsame : v = { s with rx := v.rx, draws := v.draws, ticks := v.ticks, trace := v.trace, fPay := v.fPay, idx := v.idx,
                              dstate := v.dstate } := by rw [← hv, hu]; rfl
    by_cases hps : ps = []
    · subst hps
      simp only [List.length_nil] at hi
      have hvd : v.dstate = .readChecksumHi := by
        rw [← hv]
        show (if s.idx + 1 + 2 = l.toNat then DState.readChecksumHi else DState.readPayload) = _
        rw [if_pos (by omega)]
      refine ⟨v, as₁, as₂, e, hf', hp, hc', hr', hvd, fun i hi' => ?_, fun i hi' => ?_, hsame⟩
      · simp only [List.length_cons, List.length_nil] at hi'
        obtain rfl : i = 0 := by omega
        rw [hpay, readCell_writeCell, if_pos ⟨rfl, by omega⟩]
        rfl
      · simp only [List.length_cons, List.length_nil] at hi'
        rw [hpay, readCell_writeCell, if_neg (by omega)]
    · have hpos : 0 < ps.length := List.length_pos_iff.2 hps
      have hvd : v.dstate = .readPayload := by
        rw [← hv]
        show (if s.idx + 1 + 2 = l.toNat then DState.readChecksumHi else DState.readPayload) = _
        rw [if_neg (by omega)]
      have hpl : Polling v := hp.polling h (by simp [hvd]) (by rw [hidx]; simp only [payloadCap_eq]; omega)
      obtain ⟨w, bs₁, bs₂, e', g1, g2, g3, g4, g5, g6, g7, g8⟩ :=
        ih hpl hvd hfl (by rw [hidx]; omega) hps hf' hc' hr'
      refine ⟨w, as₁ ++ bs₁, bs₂, by rw [e, e', List.append_assoc], g1, hp.trans g2, g3, g4, g5, fun i hi' => ?_, fun i hi' => ?_,
        by rw [g8, hsame]⟩
      · cases i with
        | zero =>
          rw [g7 _ (Or.inl (by rw [hidx]; omega)), hpay, readCell_writeCell, if_pos ⟨by omega, by omega⟩]
          rfl
        | succ i =>
          have := g6 i (by simpa using hi')
          rw [hidx] at this
          simpa [Nat.add_assoc, Nat.add_comm 1] using this
      · simp only [List.length_cons] at hi'
        rw [g7 i (by rw [hidx]; omega), hpay, readCell_writeCell, if_neg (by omega)]

/-- R116 to R119: a frame as the encoder lays it out, any number of preamble bytes before it and fewer failed polls than ticks among its bytes:
all of it but the last byte is taken, and the last byte is the transport's next answer. -/
theorem Progress.of_frame {s : State} {k : Nat} {c : Byte} {bs : List Byte} {as rest : List (Option Byte)} (h : Polling s)
    (hd : s.dstate = .seekLength) (hi : s.idx = 0) (hp : s.params.PreambleFree) (hn : bs.length ≤ payloadCap)
    (hf : as.filterMap id = List.replicate k s.params.preamble ++ wireFrame s.params c bs) (hc : as.count none < s.ticks.toNat)
    (hlast : as.getLast? ≠ some none) (hr : s.rx = as ++ rest) :
    let crc := pCrc s.params.crc (lengthByte bs.length :: c :: bs)
    ∃ v as₁, as = as₁ ++ [some (loByte crc)] ∧ Progress s v as₁ ∧ v.ticks ≠ 0#32 ∧ v.rx = some (loByte crc) :: rest ∧
      v.dstate = .readChecksumLo ∧ v.fLen = .known (lengthByte bs.length) ∧ v.fCmd = .known c ∧ v.fCrcHi = .known (hiByte crc) ∧
      (∀ i (hi : i < bs.length), readCell v.fPay i = .known bs[i]) ∧ (∀ i, bs.length ≤ i → readCell v.fPay i = readCell s.fPay i) ∧
      v = { s with rx := v.rx, draws := v.draws, ticks := v.ticks, trace := v.trace, fLen := v.fLen, fCmd := v.fCmd, fPay := v.fPay,
                   fCrcHi := v.fCrcHi, idx := v.idx, dstate := v.dstate } := by
  intro crc
  have hL := lengthByte_toNat hn
  simp only [headerLen_eq] at hL
  have hne : lengthByte bs.length ≠ s.params.preamble := fun e => hp ⟨by rw [← e]; omega, by
    rw [← e]; simp only [maxLength_eq, payloadCap_eq] at *; omega⟩
  have hf0 : as.filterMap id =
      List.replicate (k + 1) s.params.preamble ++ (lengthByte bs.length :: c :: (bs ++ [hiByte crc, loByte crc])) := by
    rw [hf, wireFrame, List.replicate_succ', List.append_assoc]
    rfl
  obtain ⟨v0, a0, b0, e0, f0, p0, c0, r0, s0⟩ := Progress.of_preambles h hd hf0 hc hr
  have d0 : v0.dstate = .seekLength := by rw [s0]; exact hd
  have pr0 : v0.params = s.params := by rw [s0]
  have pl0 : Polling v0 := p0.polling h (by simp [d0]) (by simp [d0])
  obtain ⟨u1, v1, a1, b1, e1, f1, p1, t1, w1, c1, r1⟩ := Progress.of_byte pl0 f0 c0 r0 (fun u g1 g2 _ _ => by
    refine ⟨takeLength (lengthByte bs.length) u, by simp [takeByte, g1, d0], ?_⟩
    rw [takeLength, if_neg (by rw [g2, pr0]; exact hne)])
  have d1 : u1.dstate = .seekLength := by rw [w1]; exact d0
  simp only [takeByte, d1] at t1
  injection t1 with t1
  rw [takeLength, if_neg (by rw [w1, pr0]; exact hne)] at t1
  have dv1 : v1.dstate = .readCommand := by rw [← t1]
  have lv1 : v1.fLen = .known (lengthByte bs.length) := by rw [← t1]
  have s1 : v1 = { v0 with rx := v1.rx, draws := v1.draws, ticks := v1.ticks, trace := v1.trace, fLen := v1.fLen, dstate := v1.dstate } := by
    rw [← t1, w1]
  have pl1 : Polling v1 := p1.polling pl0 (by simp [dv1]) (by simp [dv1])
  obtain ⟨u2, v2, a2, b2, e2, f2, p2, t2, w2, c2, r2⟩ := Progress.of_byte pl1 f1 c1 r1 (fun u g1 _ _ _ => by
    exact ⟨takeCommand c u, by simp [takeByte, g1, dv1], rfl⟩)
  have d2 : u2.dstate = .readCommand := by rw [w2]; exact dv1
  have l2 : u2.fLen = .known (lengthByte bs.length) := by rw [w2]; exact lv1
  simp only [takeByte, d2] at t2
  injection t2 with t2
  simp only [takeCommand, l2, Val.value_known, headerLen_eq] at t2
  have lv2 : v2.fLen = .known (lengthByte bs.length) := by rw [← t2]; exact l2
  have cv2 : v2.fCmd = .known c := by rw [← t2]
  have s2 : v2 = { v1 with rx := v2.rx, draws := v2.draws, ticks := v2.ticks, trace := v2.trace, fCmd := v2.fCmd, dstate := v2.dstate } := by
    rw [← t2, w2]
    rfl
  have i2 : v2.idx = 0 := by rw [s2, s1, s0]; exact hi
  have fp2 : v2.fPay = s.fPay := by rw [s2, s1, s0]
  -- the payload, if there is one
  have hpay : ∃ v3 a3 b3, b2 = a3 ++ b3 ∧ b3.filterMap id = [hiByte crc, loByte crc] ∧ Progress v2 v3 a3 ∧
      b3.count none < v3.ticks.toNat ∧ v3.rx = b3 ++ rest ∧ v3.dstate = .readChecksumHi ∧
      (∀ i (hi : i < bs.length), readCell v3.fPay i = .known bs[i]) ∧ (∀ i, bs.length ≤ i → readCell v3.fPay i = readCell s.fPay i) ∧
      v3 = { v2 with rx := v3.rx, draws := v3.draws, ticks := v3.ticks, trace := v3.trace, fPay := v3.fPay, idx := v3.idx,
                     dstate := v3.dstate } := by
    by_cases hb : bs = []
    · subst hb
      have dv2 : v2.dstate = .readChecksumHi := by
        rw [← t2]
        show (if 2 < (lengthByte 0).toNat then DState.readPayload else DState.readChecksumHi) = _
        rw [if_neg (by simp only [List.length_nil] at hL; omega)]
      exact ⟨v2, [], b2, rfl, f2, Progress.refl v2, c2, r2, dv2, by simp, fun i _ => by rw [fp2], rfl⟩
    · have hpos : 0 < bs.length := List.length_pos_iff.2 hb
      have dv2 : v2.dstate = .readPayload := by
        rw [← t2]
        show (if 2 < (lengthByte bs.length).toNat then DState.readPayload else DState.readChecksumHi) = _
        rw [if_pos (by omega)]
      have pl2 : Polling v2 := p2.polling pl1 (by simp [dv2]) (by simp [i2])
      have hdue : payloadDue (lengthByte bs.length) = bs.length := by simp only [payloadDue, headerLen_eq]; omega
      obtain ⟨v3, a3, b3, g1, g2, g3, g4, g5, g6, g7, g8, g9⟩ :=
        Progress.of_payload pl2 dv2 lv2 (by rw [i2, hdue, Nat.zero_add]) (by rw [hdue]; exact hn) hb f2 c2 r2
      refine ⟨v3, a3, b3, g1, g2, g3, g4, g5, g6, fun i hi' => ?_, fun i hi' => ?_, g9⟩
      · have := g7 i hi'
        rwa [i2, Nat.zero_add] at this
      · rw [g8 i (Or.inr (by rw [i2]; omega)), fp2]
  obtain ⟨v3, a3, b3, e3, f3, p3, c3, r3, d3, q3, q3', s3⟩ := hpay
  have p03 : Progress v0 v3 (a1 ++ (a2 ++ a3)) := p1.trans (p2.trans p3)
  have pl3 : Polling v3 := p03.polling pl0 (by simp [d3]) (by simp [d3])
  obtain ⟨u4, v4, a4, b4, e4, f4, p4, t4, w4, c4, r4⟩ := Progress.of_byte pl3 f3 c3 r3 (fun u g1 _ _ _ => by
    exact ⟨takeChecksumHi (hiByte crc) u, by simp [takeByte, g1, d3], rfl⟩)
  have d4 : u4.dstate = .readChecksumHi := by rw [w4]; exact d3
  simp only [takeByte, d4] at t4
  injection t4 with t4
  have s4 : v4 = { v3 with rx := v4.rx, draws := v4.draws, ticks := v4.ticks, trace := v4.trace, fCrcHi := v4.fCrcHi, dstate := v4.dstate } := by
    rw [← t4, w4]
    rfl
  have dv4 : v4.dstate = .readChecksumLo := by rw [← t4]; rfl
  have hv4 : v4.fCrcHi = .known (hiByte crc) := by rw [← t4]; rfl
  have pl4 : Polling v4 := p4.polling pl3 (by simp [dv4]) (by simp [dv4])
  -- the failed polls before the last byte
  obtain ⟨j, b5, e5, f5⟩ := filterMap_cons_split f4
  have hb5 : b5 = [] := by
    by_contra hne5
    have hall : ∀ x ∈ b5, x = none := by
      intro x hx
      cases x with
      | none => rfl
      | some y =>
        have hy : y ∈ b5.filterMap id := List.mem_filterMap.2 ⟨some y, hx, rfl⟩
        rw [f5] at hy
        simp at hy
    apply hlast
    rw [e0, e1, e2, e3, e4, e5]
    have hq : b5.getLast? = some none := by
      rw [List.getLast?_eq_getLast_of_ne_nil hne5]
      exact congrArg some (hall _ (List.getLast_mem hne5))
    have hq' : (some (loByte crc) :: b5).getLast? = some none := by
      rw [List.getLast?_cons, hq]
      rfl
    simp only [List.getLast?_append, hq', Option.some_or]
  subst hb5
  subst e5
  simp only [List.count_append, List.count_replicate_self, List.count_cons, List.count_nil, beq_iff_eq, reduceCtorEq, if_false,
    Nat.add_zero] at c4
  rw [List.append_assoc] at r4
  obtain ⟨v5, p5, r5, s5, -⟩ := Progress.of_failedPolls pl4 (by omega) r4
  have k5 := p5.ticks
  simp only [List.count_replicate_self] at k5
  refine ⟨v5, a0 ++ (a1 ++ (a2 ++ (a3 ++ (a4 ++ List.replicate j none)))), ?_,
    p0.trans (p1.trans (p2.trans (p3.trans (p4.trans p5)))), ticks_ne_zero (by omega), by simpa using r5, ?_, ?_, ?_, ?_, ?_, ?_, ?_⟩
  · rw [e0, e1, e2, e3, e4]
    simp [List.append_assoc]
  · rw [s5]; exact dv4
  · rw [s5, s4, s3]; exact lv2
  · rw [s5, s4, s3]; exact cv2
  · rw [s5]; exact hv4
  · intro i hi'; rw [s5, s4]; exact q3 i hi'
  · intro i hi'; rw [s5, s4]; exact q3' i hi'
  · rw [s5, s4, s3, s2, s1, s0]

end Sys2Proof.Machine
end

