-- ==== Sys2Proof/Tests/Slice0.lean ====
section
/-! SUPPORT. Tests of the model's own making. Expected values come from the spec's vectors (95_test_vectors.md, cited by their ids), which use
the test instance TI; `witness_…` theorems show that the hypotheses of a statement can be met together. -/

open Sys2Proof Sys2Proof.Machine

namespace Sys2Proof.Tests

set_option maxRecDepth 8000

/-! ### Helpers -/

/-- The test instance of 95_test_vectors.md. -/
def ti (r : Role) : Params := { Config.witnessParams with role := r, crc := .ccittFalse }

/-- The reset state of a TI block, its hidden registers at 0. -/
def blank (r : Role) : State :=
  { State.resetWith (ti r) 0 with ticks := 0#32, idx := 0, op := 0#3, reqCmd := 0#8, reqLen := 0#8 }

/-- A field of the next state. -/
def nextField {α : Type} (f : State → α) : Outcome → Option α
  | .next t => some (f t)
  | _ => none

/-- An array whose first elements are given. -/
def cells (n : Nat) (bs : List Byte) : Vector (Val 8) n := writeCells (Vector.replicate n .unspec) 0 (knownCells bs)

/-- A block that holds the frame `l cmd pay hi lo`. -/
def holding (r : Role) (l cmd : Byte) (pay : List Byte) (hi lo : Byte) : State :=
  { blank r with fvalid := true, fLen := .known l, fCmd := .known cmd, fPay := cells 26 pay, fCrcHi := .known hi, fCrcLo := .known lo }

/-- A block whose operation `op` is decoding and has the given answers to come. -/
def decoding (r : Role) (op : BitVec 3) (d : DState) (rx : List (Option Byte)) : State :=
  { blank r with busy := true, op := op, tstate := .poll, dstate := d, ticks := 3#32, rx := rx }

/-- One poll from the end of the frame `l cmd pay hi _`. -/
def lastPoll (r : Role) (op : BitVec 3) (l cmd : Byte) (pay : List Byte) (hi : Byte) (rx : List (Option Byte)) : State :=
  { decoding r op .readChecksumLo rx with fLen := .known l, fCmd := .known cmd, fPay := cells 26 pay, fCrcHi := .known hi, idx := pay.length }

/-- The bytes of `TXB[0 .. TX_LEN-1]`. -/
def sent (s : State) : List Byte := s.txFrame

/-! ### Well-formedness: the one check, and an ill-formed term for it (R220) -/

theorem test_wellFormed_refuses_ident_as_unsupported : wellFormed (ti .slave) (.unsupported 0x03#8) = false := by decide
theorem test_wellFormed_refuses_setRelay_as_unsupported : wellFormed (ti .slave) (.unsupported 0x07#8) = false := by decide
theorem test_wellFormed_refuses_open_code_as_unsupported : wellFormed (ti .slave) (.unsupported 0x87#8) = false := by decide
theorem test_wellFormed_accepts_unassigned_code : wellFormed (ti .slave) (.unsupported 0x55#8) = true := by decide

/-! ### Decoding: words written out from the encodings of R90 to R99, R211, R216, R220 -/

theorem test_decode_illegalOp0 : decode (ti .master) (.ctrl 0x00000000#32) = .illegalOp0 0 0 := by decide
theorem test_decode_decode : decode (ti .master) (.ctrl 0x00000001#32) = .decode 0 0 := by decide
theorem test_decode_validate : decode (ti .master) (.ctrl 0x00000002#32) = .validate 0 0 := by decide
theorem test_decode_encode : decode (ti .master) (.ctrl 0x001B1003#32) = .encode 0x10 27 := by decide
theorem test_decode_requestData : decode (ti .master) (.ctrl 0x00070304#32) = .requestData 0x03 7 := by decide
theorem test_decode_sendAction : decode (ti .master) (.ctrl 0x00010705#32) = .sendAction 0x07 1 := by decide
theorem test_decode_handle : decode (ti .slave) (.ctrl 0x00000006#32) = .handle 0 0 := by decide
theorem test_decode_illegalOp7 : decode (ti .master) (.ctrl 0x00000007#32) = .illegalOp7 0 0 := by decide
theorem test_decode_reserved_bits : decode (ti .master) (.ctrl 0xFF0703FC#32) = .requestData 0x03 7 := by decide
theorem test_decode_ident : decode (ti .slave) (.wire 0x03#8) = .ident := by decide
theorem test_decode_setRelay : decode (ti .slave) (.wire 0x07#8) = .setRelay := by decide
theorem test_decode_open_codes :
    ([0x81#8, 0x82#8, 0x83#8, 0x84#8, 0x85#8, 0x86#8, 0x87#8].map fun b => decode (ti .slave) (.wire b)) =
      [.setShutterAction, .getShutterAction, .setShutterPosition, .getShutterPosition, .getRelay, .setBuzzer, .getButton] := by decide
theorem test_decode_unsupported : decode (ti .slave) (.wire 0x55#8) = .unsupported 0x55#8 := by decide

/-! ### The host's two questions (log entries 14, 15) -/

theorem test_decodeTableWord_ctrl : decodeTableWord 32 0x00070304 = some (.requestData 0x03 7) := by decide
theorem test_decodeTableWord_short_ctrl : decodeTableWord 3 6 = some (.handle 0 0) := by decide
theorem test_decodeTableWord_wire : decodeTableWord 8 0x03 = some .ident := by decide
theorem test_decodeTableWord_too_wide : decodeTableWord 8 0x100 = none := by decide
theorem test_withFetchWord_ctrl :
    nextField (fun t => t.result) (step (State.reset.withFetchWord 32 0)) = some .illegalOp := by decide
theorem test_withFetchWord_wire :
    nextField (fun t => t.tstate) (step (State.reset.withFetchWord 8 0x03)) = some (.appGet 0x03#8 7) := by decide

/-! ### The checksum (93_implementation_defined.md G1; TI checksum table) -/

theorem test_crc_check_value : pCrc .ccittFalse [0x31#8, 0x32#8, 0x33#8, 0x34#8, 0x35#8, 0x36#8, 0x37#8, 0x38#8, 0x39#8] = 0x29B1#16 := by
  decide
theorem test_crc_short_ranges : pCrc .ccittFalse [] = 0xFFFF#16 ∧ pCrc .ccittFalse [0x01#8] = 0xF1D1#16 := by decide

/-! ### Host operations -/

/-- V-X7. -/
theorem test_illegalOp0 : nextField State.statusWord (exec (.illegalOp0 0 0) (blank .master)) = some 0xB2#32 := by decide
/-- V-X8. -/
theorem test_illegalOp7 : nextField State.statusWord (exec (.illegalOp7 0 0) (blank .slave)) = some 0xBA#32 := by decide
/-- V-H7. -/
theorem test_config : (blank .master).configWord = 0x0000401A#32 ∧ (blank .slave).configWord = 0x0001401A#32 := by decide

/-- V-H4: with `TIMEOUT = 0` the first step of a decode ends it with no poll. -/
theorem test_decode_no_budget :
    nextField (fun t => (t.ticks, t.dstate)) (exec (.decode 0 0) (blank .master)) = some (0#32, .seekLength) := by decide

/-- V-C1: the frame `AA 02 03 4B 0E` is intact. -/
theorem test_validate_ok :
    nextField State.statusWord (exec (.validate 0 0) (holding .master 0x02#8 0x03#8 [] 0x4B#8 0x0E#8)) = some 0x06#32 := by decide
/-- V-C3: one payload byte flipped; `FVALID` stays 1. -/
theorem test_validate_malformed :
    nextField State.statusWord (exec (.validate 0 0) (holding .master 0x03#8 0x07#8 [0x00#8] 0x1C#8 0x7A#8)) = some 0x36#32 := by decide

/-- V-E2. -/
theorem test_encode_frame :
    nextField (fun t => (sent t, t.txLen)) (exec (.encode 0x07 1) { blank .master with arg := cells 26 [0x01#8] }) =
      some ([0xAA#8, 0x03#8, 0x07#8, 0x01#8, 0x1C#8, 0x7A#8], 6#7) := by decide
/-- V-E5: one preamble byte, no escaping. -/
theorem test_encode_no_escaping :
    nextField sent (exec (.encode 0xAA 1) { blank .master with arg := cells 26 [0xAA#8] }) =
      some [0xAA#8, 0x03#8, 0xAA#8, 0xAA#8, 0x73#8, 0xD9#8] := by decide

/-- V-M1: the request frame. -/
theorem test_requestData_frame :
    nextField sent (exec (.requestData 0x03 7) (blank .master)) = some [0xAA#8, 0x02#8, 0x03#8, 0x4B#8, 0x0E#8] := by decide
/-- V-M7, V-M17: the role is checked before the argument. -/
theorem test_requestData_checks :
    nextField State.statusWord (exec (.requestData 0x03 27) (blank .master)) = some 0x92#32 ∧
      nextField State.statusWord (exec (.requestData 0x03 27) (blank .slave)) = some 0xAA#32 := by decide

/-- V-M13: an empty payload. -/
theorem test_sendAction_frame :
    nextField sent (exec (.sendAction 0x42 0) (blank .master)) = some [0xAA#8, 0x02#8, 0x42#8, 0x13#8, 0xEB#8] := by decide
/-- V-M8. -/
theorem test_sendAction_too_long : nextField State.statusWord (exec (.sendAction 0x07 27) (blank .master)) = some 0x82#32 := by decide

/-- V-S8: HANDLE on a master. -/
theorem test_handle_role : nextField State.statusWord (exec (.handle 0 0) (blank .master)) = some 0xA2#32 := by decide
theorem test_handle_starts :
    nextField (fun t => (t.tstate, t.ticks)) (exec (.handle 0 0) { blank .slave with timeout := 100#32 }) = some (.poll, 100#32) := by decide

/-! ### Wire commands -/

theorem test_ident : nextField (fun t => t.tstate) (exec .ident (blank .slave)) = some (.appGet 0x03#8 7) := by decide
theorem test_setRelay : nextField (fun t => t.tstate) (exec .setRelay (blank .slave)) = some (.appSet 0x07#8 1) := by decide
/-- V-S3: the status frame of an unknown command. -/
theorem test_unsupported :
    nextField (fun t => (sent t, t.appStatus)) (exec (.unsupported 0x55#8) (blank .slave)) =
      some ([0xAA#8, 0x03#8, 0x55#8, 0xFE#8, 0x6A#8, 0x57#8], .known 0xFE#8) := by decide
theorem test_getShutterAction_unsupported :
    nextField (fun t => t.tstate)
        (exec .getShutterAction { blank .slave with params := { ti .slave with classGetShutterAction := .unsupported } }) =
      some (.writeReply .notSupported) := by decide

/-! ### The block's step -/

/-- V-M4, W3: the reply `AA 03 07 00 0C 5B` to a request with command 03. -/
theorem test_invalid_answer :
    nextField (fun t => (t.statusWord, t.outLen))
        (blockStep { lastPoll .master opRequestData 0x03#8 0x07#8 [0x00#8] 0x0C#8 [some 0x5B#8] with reqCmd := 0x03#8, reqLen := 7#8 }) =
      some (0x52#32, 0#8) := by decide

/-- V-M5: `APP_STATUS` of an accepted status frame. -/
theorem test_status_byte :
    nextField (fun t => (t.statusWord, t.appStatus))
        (blockStep { lastPoll .master opSendAction 0x03#8 0x07#8 [0x00#8] 0x0C#8 [some 0x5B#8] with reqCmd := 0x07#8, reqLen := 1#8 }) =
      some (0x06#32, .known 0x00#8) := by decide

/-- V-M10: a one-byte reply to a request for three: the rest of `OUT` is UNSPEC. -/
theorem test_copy_out_short_reply :
    nextField (fun t => (readCell t.out 0, readCell t.out 1, t.outLen))
        (blockStep { lastPoll .master opRequestData 0x03#8 0x03#8 [0xAA#8] 0xD4#8 [some 0x3F#8] with reqCmd := 0x03#8, reqLen := 3#8 }) =
      some (.known 0xAA#8, .unspec, 3#8) := by decide

/-- V-S4: a request that fails its checksum gets no reply. -/
theorem test_handle_malformed :
    nextField (fun t => (t.statusWord, t.txLen)) (blockStep (lastPoll .slave opHandle 0x03#8 0x07#8 [0x01#8] 0x1C#8 [some 0x7B#8])) =
      some (0x3A#32, 0#7) := by decide

/-- V-S1: the reply frame of an identification query. -/
theorem test_getter_reply :
    nextField sent
        (blockStep { blank .slave with busy := true, op := opHandle, fvalid := true, tstate := .appGet 0x03#8 7,
                                       app := [0x00#8, 0x01#8, 0x01#8, 0x02#8, 0x01#8, 0x00#8, 0x40#8] }) =
      some [0xAA#8, 0x09#8, 0x03#8, 0x00#8, 0x01#8, 0x01#8, 0x02#8, 0x01#8, 0x00#8, 0x40#8, 0x6F#8, 0xB6#8] := by decide

/-- V-S2: the setter's argument and the status reply. -/
theorem test_setter_reply :
    nextField (fun t => (t.trace, sent t))
        (blockStep { holding .slave 0x03#8 0x07#8 [0x01#8] 0x1C#8 0x7A#8 with busy := true, op := opHandle, tstate := .appSet 0x07#8 1,
                                                                              app := [0x00#8] }) =
      some ([.appSet 0x07#8 [0x01#8] 0x00#8], [0xAA#8, 0x03#8, 0x07#8, 0x00#8, 0x0C#8, 0x5B#8]) := by decide

/-- V-S6: a reply the transport refuses. -/
theorem test_reply_refused :
    nextField State.statusWord
        (blockStep { holding .slave 0x03#8 0x07#8 [0x01#8] 0x1C#8 0x7A#8 with busy := true, op := opHandle, tstate := .writeReply .ok,
                                                                              acks := [.fail] }) =
      some 0x6E#32 := by decide

/-- R21, R22: a read of an unmapped number, and of `CTRL`. -/
theorem test_unmapped_reads : (blank .master).hostReadValue 0x3A#8 = 0#32 ∧ (blank .master).hostReadValue 0x00#8 = 0#32 := by decide

/-- P1, end state: `FRAME_HDR` of the master. -/
theorem test_frame_hdr :
    (holding .master 0x09#8 0x03#8 [] 0x6F#8 0xB6#8).hostReadValue 0x04#8 = 0x6FB60309#32 := by decide

/-- V-H2: a write while busy is lost. -/
theorem test_busy_write_lost :
    nextField (fun t => t.timeout)
        (step { blank .master with busy := true, tstate := .reserve, timeout := 100#32, host := [.wr 0x02#8 5#32] }) = some 100#32 := by
  decide

/-- V-H3: reset while an operation runs. -/
theorem test_reset_abandons :
    nextField (fun t => (t.statusWord, t.timeout, t.trace.length))
        (step { blank .master with busy := true, tstate := .reserve, timeout := 100#32, host := [.reset] }) = some (0#32, 0#32, 0) := by
  decide

/-! ### Witnesses: the hypotheses of each statement, met together -/

/-- A state of the block as it stands after a step, whatever that is. -/
def Answers (o : Outcome) : Prop := ∃ t, o = .next t

theorem witness_DecodeOfEncodeIsInstruction :
    (ti .slave).Ok ∧ wellFormed (ti .slave) (.unsupported 0x55#8) = true ∧ wellFormed (ti .slave) .ident = true ∧
      wellFormed (ti .slave) (.encode 0xFF#8 0xFF#8) = true := by decide

theorem witness_EncodeOfDecodeIsCanonical : (ti .master).Ok := by decide

theorem witness_ReservedBitsChangeNothing :
    (0xFF0703FC#32 &&& 0x00FFFF07#32 = 0x00070304#32 &&& 0x00FFFF07#32) ∧ Answers (exec (.validate 0xFF#8 0xFF#8) (blank .master)) ∧
      (decoding .master opDecode .seekLength [none]).op = opDecode ∧ Answers (blockStep (decoding .master opDecode .seekLength [none])) ∧
      (decoding .slave opHandle .seekLength [none]).op = opHandle ∧ Answers (blockStep (decoding .slave opHandle .seekLength [none])) :=
  ⟨by decide, ⟨_, rfl⟩, rfl, ⟨_, rfl⟩, rfl, ⟨_, rfl⟩⟩

theorem witness_CommandTableEntries :
    (ti .slave).Ok ∧ (ti .slave).classGetShutterAction = .read ∧
      ({ ti .slave with classGetShutterAction := .unsupported } : Params).Ok ∧ 0x55#8 ∉ (ti .slave).codes := by decide

theorem witness_TurnsOfHostAndBlock : (decoding .master opDecode .seekLength []).busy = true ∧ (blank .master).busy = false := by decide

theorem witness_StepRunsCtrlWrite :
    (blank .master).busy = false ∧ ({ blank .master with host := [.wr 0#8 0xFF0000F9#32] } : State).host = .wr 0#8 0xFF0000F9#32 :: [] := by
  decide

/-- A checksum that matches (V-S2), one that does not (V-S4), and one over no bytes at all (`length` 0). -/
theorem witness_StepRunsWireCommand :
    (let s := lastPoll .slave opHandle 0x03#8 0x07#8 [0x01#8] 0x1C#8 [some 0x7A#8]
     s.tstate = .poll ∧ s.dstate = .readChecksumLo ∧ s.op = opHandle ∧ s.ticks ≠ 0#32 ∧ s.rx = some 0x7A#8 :: [] ∧ s.fCmd = .known 0x07#8 ∧
       nextField (fun t => t.tstate) (blockStep s) = some (.appSet 0x07#8 1)) ∧
      (let s := lastPoll .slave opHandle 0x03#8 0x07#8 [0x01#8] 0x1C#8 [some 0x7B#8]
       s.tstate = .poll ∧ s.dstate = .readChecksumLo ∧ s.op = opHandle ∧ s.ticks ≠ 0#32 ∧ s.rx = some 0x7B#8 :: [] ∧ s.fCmd = .known 0x07#8 ∧
         nextField (fun t => (t.result, t.busy)) (blockStep s) = some (.malformed, false)) ∧
      (let s := lastPoll .slave opHandle 0x00#8 0x07#8 [] 0xFF#8 [some 0xFF#8]
       s.tstate = .poll ∧ s.dstate = .readChecksumLo ∧ s.op = opHandle ∧ s.ticks ≠ 0#32 ∧ s.rx = some 0xFF#8 :: [] ∧ s.fCmd = .known 0x07#8 ∧
         nextField (fun t => t.tstate) (blockStep s) = some (.appSet 0x07#8 1)) := by decide

theorem witness_UnplannedAnswerIsSomeAnswer :
    (let s := decoding .master opDecode .readPayload []
     s.rx = [] ∧ s.tstate = .poll ∧ s.dstate ≠ .idle ∧ ¬ (s.dstate = .readPayload ∧ s.idx = payloadCap) ∧ s.ticks ≠ 0#32) ∧
      (let s := { blank .master with tstate := .writeRequest }
       s.acks = [] ∧ s.tstate = .writeRequest) ∧
      (let s := { blank .slave with tstate := .appGet 0x03#8 7, app := [0x00#8] }
       s.tstate = .appGet 0x03#8 7 ∧ s.app.length < 7) ∧
      (let s := { blank .slave with tstate := .appSet 0x07#8 1 }
       s.tstate = .appSet 0x07#8 1 ∧ s.app = []) := by decide

/-- The four clauses at the ends of their ranges: 0x02, 0x20, 0x39, and 0x01, 0x03, 0x1F, 0x3A, 0xFF. -/
theorem witness_HostWriteEffects :
    (decoding .master opDecode .seekLength []).busy = true ∧ (blank .master).busy = false ∧
      (∀ n ∈ [0x20#8, 0x39#8], 0x20 ≤ n.toNat ∧ n.toNat ≤ 0x39) ∧ (0x000000FF#32 = (0xFF#8).setWidth 32) ∧
      (∀ n ∈ [0x01#8, 0x03#8, 0x1F#8, 0x3A#8, 0xFF#8], n ≠ 0x00#8 ∧ n ≠ 0x02#8 ∧ ¬ (0x20 ≤ n.toNat ∧ n.toNat ≤ 0x39)) := by decide

theorem witness_HostReadsHaveNoEffect : ({ blank .master with host := [.rd 0x04#8] } : State).host = .rd 0x04#8 :: [] := by decide

theorem witness_ReadsThatNeverDependOnBusy :
    (∀ r ∈ [ResultCode.ok, .timeout, .overflow, .malformed, .notSupported, .invalidAnswer, .txFailed, .requestFailed, .encodeTooLong, .argError,
        .roleError, .illegalOp], ({ blank .master with result := r } : State).result = r) ∧
    ∀ n ∈ [0x06#8, 0x1F#8, 0x3A#8, 0x3F#8, 0x5A#8, 0x5F#8, 0x7A#8, 0x7F#8, 0xC0#8, 0xFF#8],
      6 ≤ n.toNat ∧ ¬ (0x20 ≤ n.toNat ∧ n.toNat ≤ 0x39) ∧ ¬ (0x40 ≤ n.toNat ∧ n.toNat ≤ 0x59) ∧
        ¬ (0x60 ≤ n.toNat ∧ n.toNat ≤ 0x79) ∧ ¬ (0x80 ≤ n.toNat ∧ n.toNat ≤ 0xBF) := by decide

theorem witness_IdleReadsGiveRegisters :
    let s := { holding .master 0x1C#8 0x20#8 (List.replicate 26 0x19#8) 0x75#8 0xB1#8 with
               appStatus := .known 0xFE#8, arg := cells 26 (List.replicate 26 0x11#8), out := cells 26 (List.replicate 26 0x22#8),
               txb := cells 64 (List.replicate 64 0x33#8) }
    s.busy = false ∧ s.fvalid = true ∧ s.fLen = .known 0x1C#8 ∧ s.fCmd = .known 0x20#8 ∧ s.fCrcHi = .known 0x75#8 ∧ s.fCrcLo = .known 0xB1#8 ∧
      s.appStatus = .known 0xFE#8 ∧ (∀ i ∈ [0, 25], readCell s.arg i = .known 0x11#8 ∧ readCell s.fPay i = .known 0x19#8 ∧
        readCell s.out i = .known 0x22#8) ∧ (∀ i ∈ [0, 63], readCell s.txb i = .known 0x33#8) := by decide

theorem witness_HiddenRegistersTellNothing :
    (decoding .master opDecode .seekLength []).draws = (decoding .slave opHandle .readPayload []).draws ∧
      (decoding .master opDecode .seekLength []).busy = true ∧ (decoding .slave opHandle .readPayload []).busy = true ∧
      (blank .master).draws = (blank .slave).draws ∧ (blank .master).busy = false ∧ (blank .slave).busy = false ∧
      (blank .master).fvalid = false ∧ (blank .slave).fvalid = false ∧ 0x40 ≤ (0x40#8).toNat ∧ (0x59#8).toNat ≤ 0x59 := by decide

theorem witness_ResetGivesResetValues : ({ blank .master with host := [.reset] } : State).host = .reset :: [] := by decide

theorem witness_DecodeAndHandleStartFresh : (blank .slave).params.role = .slave := by decide

/-- With no frame held; a payload of 26 bytes, and the short lengths 0 and 2. -/
theorem witness_ValidateComparesChecksum :
    (blank .master).fvalid = false ∧
      (let s := holding .master 0x1C#8 0x20#8 (List.replicate 26 0x19#8) 0x75#8 0xB1#8
       s.fvalid = true ∧ s.fLen = .known 0x1C#8 ∧ s.fCmd = .known 0x20#8 ∧ s.fCrcHi = .known 0x75#8 ∧ s.fCrcLo = .known 0xB1#8 ∧
         (List.replicate 26 0x19#8).length = (0x1C#8).toNat - 2 ∧
         (∀ i (h : i < (List.replicate 26 0x19#8).length), readCell s.fPay i = .known (List.replicate 26 0x19#8)[i])) ∧
      (∀ l ∈ [0x00#8, 0x01#8, 0x02#8], ([] : List Byte).length = l.toNat - 2 ∧ (holding .master l 0x03#8 [] 0x4B#8 0x0E#8).fLen = .known l) := by
  decide

theorem witness_ValidateDetectsChangedByte :
    let s := holding .master 0x03#8 0x07#8 [0x01#8] 0x1C#8 0x7A#8
    s.fvalid = true ∧ s.fLen = .known 0x03#8 ∧ s.fCmd = .known 0x07#8 ∧ s.fCrcHi = .known 0x1C#8 ∧ s.fCrcLo = .known 0x7A#8 ∧
      (0x03#8).toNat = 2 + [0x01#8].length ∧ (∀ j (h : j < [0x01#8].length), readCell s.fPay j = .known [0x01#8][j]) ∧
      pCrc s.params.crc (0x03#8 :: 0x07#8 :: [0x01#8].set 0 0x00#8) ≠ pCrc s.params.crc [0x03#8, 0x07#8, 0x01#8] ∧
      pCrc s.params.crc [0x03#8, 0x00#8, 0x01#8] ≠ pCrc s.params.crc [0x03#8, 0x07#8, 0x01#8] ∧
      nextField (fun t => t.result) (exec (.validate 0 0) s) = some .ok := by decide

theorem witness_EncodeBuildsFrame : (0x00#8).toNat ≤ 26 ∧ (0x1A#8).toNat ≤ 26 := by decide

theorem witness_LongOperandsAreRefused : 26 < (0x1B#8).toNat ∧ 26 < (0xFF#8).toNat ∧ (blank .master).params.role = .master := by decide

theorem witness_RequestDataBuildsRequest : (blank .master).params.role = .master ∧ (0x1A#8).toNat ≤ 26 := by decide

theorem witness_SendActionBuildsRequest : (blank .master).params.role = .master ∧ (0x00#8).toNat ≤ 26 ∧ (0x1A#8).toNat ≤ 26 := by decide

theorem witness_OtherRoleFinishesRoleError : (blank .slave).params.role = .slave ∧ (blank .master).params.role = .master := by decide

theorem witness_ReadCommandsCallGetter : (blank .slave).params.classGetShutterAction = .read := by decide

theorem witness_UnsupportedCommandsBuildStatusFrame :
    let s := { blank .slave with params := { ti .slave with classGetShutterAction := .unsupported } }
    s.params.classGetShutterAction = .unsupported ∧ s.params.Ok := by decide

theorem witness_OverflowEndsDecode :
    let s := { decoding .master opDecode .readPayload [] with idx := 26, fLen := .known 0x1D#8 }
    s.tstate = .poll ∧ s.dstate = .readPayload ∧ s.idx = 26 ∧ s.op = opDecode := by decide

theorem witness_NoTicksEndsDecode :
    let s := { decoding .slave opHandle .readPayload [] with idx := 25, ticks := 0#32 }
    s.tstate = .poll ∧ s.dstate ≠ .idle ∧ ¬ (s.dstate = .readPayload ∧ s.idx = 26) ∧ s.ticks = 0#32 ∧ s.op = opHandle := by decide

theorem witness_FailedPollCostsOneTick :
    (let s := { decoding .master opDecode .readPayload [none] with idx := 25, ticks := 1#32 }
     s.tstate = .poll ∧ s.dstate ≠ .idle ∧ ¬ (s.dstate = .readPayload ∧ s.idx = 26) ∧ s.ticks ≠ 0#32 ∧ s.rx = none :: []) ∧
      (let s := { decoding .master opDecode .seekLength [some 0x02#8] with ticks := 0xFFFFFFFF#32 }
       s.tstate = .poll ∧ s.dstate ≠ .idle ∧ ¬ (s.dstate = .readPayload ∧ s.idx = 26) ∧ s.ticks ≠ 0#32 ∧ s.rx = some 0x02#8 :: [] ∧
         nextField (fun u => u.ticks) (blockStep s) = some 0xFFFFFFFF#32) := by decide

theorem witness_SeekLengthTakesByte :
    let s := decoding .master opDecode .seekLength [some 0xAA#8, some 0xAB#8]
    s.tstate = .poll ∧ s.dstate = .seekLength ∧ s.ticks ≠ 0#32 ∧ s.rx = some 0xAA#8 :: [some 0xAB#8] ∧ 0xAA#8 = s.params.preamble ∧
      0xAB#8 ≠ s.params.preamble := by decide

/-- `length` 2 and 3, on either side of the branch. -/
theorem witness_ReadCommandTakesByte :
    (∀ l ∈ [0x00#8, 0x02#8, 0x03#8, 0xFF#8],
      let s := { decoding .master opDecode .readCommand [some 0x07#8] with fLen := .known l }
      s.tstate = .poll ∧ s.dstate = .readCommand ∧ s.ticks ≠ 0#32 ∧ s.rx = some 0x07#8 :: [] ∧ s.fLen = .known l) ∧
      2 < (0x03#8).toNat ∧ (0x02#8).toNat ≤ 2 := by decide

theorem witness_ReadPayloadTakesByte :
    let s := { decoding .master opDecode .readPayload [some 0x19#8] with fLen := .known 0x1C#8, idx := 25 }
    s.tstate = .poll ∧ s.dstate = .readPayload ∧ s.idx < 26 ∧ s.ticks ≠ 0#32 ∧ s.rx = some 0x19#8 :: [] ∧ s.fLen = .known 0x1C#8 := by decide

theorem witness_ChecksumBytesEndDecode :
    ∀ d ∈ [DState.readChecksumHi, DState.readChecksumLo],
      let s := decoding .master opDecode d [some 0x4B#8]
      s.tstate = .poll ∧ s.ticks ≠ 0#32 ∧ s.rx = some 0x4B#8 :: [] ∧ s.dstate = d ∧ s.op = opDecode := by decide

theorem witness_RequestWriteStep :
    ∀ a ∈ [Ack.ok, Ack.fail],
      let s := { blank .master with busy := true, tstate := .writeRequest, txLen := 31#7, acks := [a] }
      s.tstate = .writeRequest ∧ s.acks = a :: [] ∧ s.txLen.toNat ≤ 64 := by decide

theorem witness_ReserveStep :
    (let s := { blank .master with busy := true, tstate := .reserve, op := opRequestData, reqLen := 26#8, acks := [.ok] }
     s.tstate = .reserve ∧ s.acks = .ok :: [] ∧ s.op = opRequestData ∧ s.reqLen.toNat ≤ 26 ∧
       (26#8).toNat = s.reqLen.toNat + s.params.reserveOverhead.val) ∧
      (let s := { blank .master with busy := true, tstate := .reserve, op := opSendAction, acks := [.fail] }
       s.tstate = .reserve ∧ s.acks = .fail :: [] ∧ s.op = opSendAction ∧ (1#8).toNat = 1 + s.params.reserveOverhead.val) := by decide

/-- What the statements on the end of a master's decode ask of the state, for a reply with one payload byte. -/
def ReplyPremises (s : State) (op : BitVec 3) (b cmd hi p req : Byte) : Prop :=
  s.tstate = .poll ∧ s.dstate = .readChecksumLo ∧ s.ticks ≠ 0#32 ∧ s.rx = some b :: [] ∧ s.op = op ∧ s.reqLen.toNat ≤ 26 ∧
    s.fLen = .known 0x03#8 ∧ s.fCmd = .known cmd ∧ s.fCrcHi = .known hi ∧ s.reqCmd = req ∧ [p].length = (0x03#8).toNat - 2 ∧
    (∀ i (h : i < [p].length), readCell s.fPay i = .known [p][i]) ∧ s.params = ti .master

theorem replyPremises (op : BitVec 3) (b cmd hi p req : Byte) :
    ReplyPremises { lastPoll .master op 0x03#8 cmd [p] hi [some b] with reqCmd := req, reqLen := 26#8 } op b cmd hi p req :=
  ⟨rfl, rfl, show (3#32 : Word) ≠ 0#32 by decide, rfl, rfl, show (26#8).toNat ≤ 26 by decide, rfl, rfl, rfl, rfl, rfl, fun i h => by
    obtain rfl : i = 0 := by simpa using h
    rfl, rfl⟩

/-- V-M10's reply `AA 03 03 AA D4 3F`: another last byte, another request, and the request's own. -/
theorem witness_RequestDataReply :
    (∃ s, ReplyPremises s opRequestData 0x3E#8 0x03#8 0xD4#8 0xAA#8 0x03#8) ∧
      (∃ s, ReplyPremises s opRequestData 0x3F#8 0x03#8 0xD4#8 0xAA#8 0x07#8) ∧
      (∃ s, ReplyPremises s opRequestData 0x3F#8 0x03#8 0xD4#8 0xAA#8 0x03#8) ∧
      pCrc (ti .master).crc (([0x03#8, 0x03#8, 0xAA#8] : List Byte).take 3) = 0xD4#8 ++ 0x3F#8 ∧
      pCrc (ti .master).crc (([0x03#8, 0x03#8, 0xAA#8] : List Byte).take 3) ≠ 0xD4#8 ++ 0x3E#8 :=
  ⟨⟨_, replyPremises _ _ _ _ _ _⟩, ⟨_, replyPremises _ _ _ _ _ _⟩, ⟨_, replyPremises _ _ _ _ _ _⟩, by decide, by decide⟩

/-- V-M5's reply `AA 03 07 00 0C 5B`, likewise. -/
theorem witness_SendActionReply :
    (∃ s, ReplyPremises s opSendAction 0x5A#8 0x07#8 0x0C#8 0x00#8 0x07#8) ∧
      (∃ s, ReplyPremises s opSendAction 0x5B#8 0x07#8 0x0C#8 0x00#8 0x03#8) ∧
      (∃ s, ReplyPremises s opSendAction 0x5B#8 0x07#8 0x0C#8 0x00#8 0x07#8) ∧
      pCrc (ti .master).crc (([0x03#8, 0x07#8, 0x00#8] : List Byte).take 3) = 0x0C#8 ++ 0x5B#8 ∧
      pCrc (ti .master).crc (([0x03#8, 0x07#8, 0x00#8] : List Byte).take 3) ≠ 0x0C#8 ++ 0x5A#8 :=
  ⟨⟨_, replyPremises _ _ _ _ _ _⟩, ⟨_, replyPremises _ _ _ _ _ _⟩, ⟨_, replyPremises _ _ _ _ _ _⟩, by decide, by decide⟩

theorem witness_GetterAnswerIsReply :
    ∀ m ∈ [(0 : PayloadLen), 26],
      let s := { blank .slave with busy := true, tstate := .appGet 0x85#8 m, app := List.replicate m.val 0x40#8 }
      s.tstate = .appGet 0x85#8 m ∧ s.app = List.replicate m.val 0x40#8 ++ [] ∧ (List.replicate m.val 0x40#8).length = m.val := by decide

theorem witness_SetterResultIsReply :
    let s := { blank .slave with busy := true, tstate := .appSet 0x07#8 26, app := [0x05#8] }
    s.tstate = .appSet 0x07#8 26 ∧ s.app = 0x05#8 :: [] := by decide

theorem witness_ReplyWriteEndsHandle :
    let s := { blank .slave with busy := true, tstate := .writeReply .notSupported, txLen := 64#7, acks := [.fail] }
    s.tstate = .writeReply .notSupported ∧ s.acks = .fail :: [] ∧ s.txLen.toNat ≤ 64 := by decide

theorem blank_regs (r : Role) : RegsOk (blank r) := by cases r <;> exact ⟨by decide, by decide, by decide, by decide⟩

/-- A decode in its first state meets the invariant. -/
theorem decoding_inv (rx : List (Option Byte)) : Inv (decoding .master opDecode .seekLength rx) :=
  Inv.of_polling ⟨(blank_regs .master).1, (blank_regs .master).2, Or.inl rfl, (blank_regs .master).4⟩ rfl rfl rfl rfl (by simp [decoding])
    (fun h => absurd h (show ¬ (opDecode = opRequestData ∨ opDecode = opSendAction) by decide)) (Or.inl rfl) rfl

theorem witness_EveryStepKeepsInvariant :
    Inv (decoding .master opDecode .seekLength [some 0xAA#8]) ∧ Answers (step (decoding .master opDecode .seekLength [some 0xAA#8])) :=
  ⟨decoding_inv _, ⟨_, rfl⟩⟩

theorem witness_NoStepStops : Inv (decoding .master opDecode .seekLength []) := decoding_inv _

theorem witness_ParametersNeverChange : Answers (step (decoding .master opDecode .seekLength [none])) := ⟨_, rfl⟩

theorem witness_OneAdmittedEventPerStep :
    Inv (decoding .master opDecode .seekLength [none]) ∧
      nextField (fun t => t.trace) (step (decoding .master opDecode .seekLength [none])) = some [.noByte, .poll none] :=
  ⟨decoding_inv _, by decide⟩

/-- The operation ends by `finish` (no ticks left), and by reset. -/
theorem witness_OperationsEndByFinish :
    (∃ s, Inv s ∧ s.busy = true ∧ nextField (fun t => (t.busy, t.done)) (step s) = some (false, true)) ∧
      (∃ s, Inv s ∧ s.busy = true ∧ nextField (fun t => (t.busy, t.done)) (step s) = some (false, false)) :=
  ⟨⟨{ decoding .master opDecode .seekLength [] with ticks := 0#32 },
      Inv.of_polling ⟨(blank_regs .master).1, by decide, Or.inl rfl, by decide⟩ rfl rfl rfl rfl (by simp [decoding])
        (by intro h; exact absurd h (by decide)) (Or.inl rfl) rfl, rfl, by decide⟩,
    ⟨{ decoding .master opDecode .seekLength [] with host := [.reset] }, (decoding_inv []).withHost _, rfl, by decide⟩⟩

theorem witness_OutChangesOnlyOnOkRequestData :
    let s := { lastPoll .master opRequestData 0x03#8 0x03#8 [0xAA#8] 0xD4#8 [some 0x3F#8] with reqCmd := 0x03#8, reqLen := 3#8 }
    nextField (fun t => (t.result, readCell t.out 0)) (step s) = some (.ok, .known 0xAA#8) ∧ readCell s.out 0 = .unspec ∧ s.host = [] := by
  decide

theorem witness_FrameBecomesValidOnlyAtDecodeEnd :
    let s := lastPoll .master opDecode 0x02#8 0x03#8 [] 0x4B#8 [some 0x0E#8]
    s.fvalid = false ∧ nextField (fun t => t.fvalid) (step s) = some true := by decide

theorem witness_TimeoutAfterExactlyTheBudget :
    let s := decoding .master opDecode .readPayload [none, none, none]
    s.busy = true ∧ s.host = [] ∧ s.tstate = .poll ∧ s.dstate ≠ .idle ∧ ¬ (s.dstate = .readPayload ∧ s.idx = 26) ∧ s.op = opDecode ∧
      s.rx = List.replicate s.ticks.toNat none ++ [] := by decide

theorem witness_PreambleFloodNeverEnds :
    let s := decoding .master opDecode .seekLength [some 0xAA#8, some 0xAA#8]
    s.busy = true ∧ s.host = [] ∧ s.tstate = .poll ∧ s.dstate = .seekLength ∧ s.ticks ≠ 0#32 ∧
      s.rx = List.replicate 2 (some s.params.preamble) ++ [] := by decide

theorem witness_OversizedFrameOverflows :
    let s := decoding .master opDecode .seekLength (some 0x1D#8 :: some 0x20#8 :: ((List.replicate 26 0x19#8).map some ++ []))
    s.busy = true ∧ s.host = [] ∧ s.tstate = .poll ∧ s.dstate = .seekLength ∧ s.idx = 0 ∧ s.op = opDecode ∧ s.ticks ≠ 0#32 ∧
      29 ≤ (0x1D#8).toNat ∧ 0x1D#8 ≠ s.params.preamble ∧ (List.replicate 26 0x19#8).length = 26 ∧
      s.rx = some 0x1D#8 :: some 0x20#8 :: ((List.replicate 26 0x19#8).map some ++ []) := by decide

/-- A master that has encoded `AA 03 07 01 1C 7A` (V-E2). -/
def encoder : State := { blank .master with arg := cells 26 [0x01#8] }

/-- V-D2's kind: one more preamble byte, and failed polls among the bytes of `AA 03 07 01 1C 7A`. -/
theorem witness_EncodedFrameDecodes :
    let as : List (Option Byte) := [some 0xAA#8, none, some 0xAA#8, some 0x03#8, some 0x07#8, none, some 0x01#8, some 0x1C#8, some 0x7A#8]
    let s := decoding .master opDecode .seekLength as
    (∃ e', exec (.encode 0x07#8 (BitVec.ofNat 8 [0x01#8].length)) encoder = .next e' ∧
        as.filterMap id = List.replicate 1 s.params.preamble ++ e'.txFrame) ∧
      (∀ i (h : i < [0x01#8].length), readCell encoder.arg i = .known [0x01#8][i]) ∧ [0x01#8].length ≤ 26 ∧ s.params = encoder.params ∧
      s.busy = true ∧ s.host = [] ∧ s.tstate = .poll ∧ s.dstate = .seekLength ∧ s.idx = 0 ∧ s.op = opDecode ∧ s.params.PreambleFree ∧
      as.count none < s.ticks.toNat ∧ as.getLast? ≠ some none ∧ s.rx = as ++ [] :=
  ⟨⟨_, rfl, by decide⟩, by decide⟩

/-- V-M10: a reply shorter than asked for. -/
theorem witness_RequestDataCompletes :
    let as : List (Option Byte) := [none, some 0xAA#8, some 0x03#8, some 0x03#8, some 0xAA#8, some 0xD4#8, some 0x3F#8]
    let s := { blank .master with timeout := 2#32, host := [.wr 0#8 (ctrlWord 4#3 0x03#8 3#8)], acks := [.ok, .ok], rx := as }
    s.busy = false ∧ s.params.role = .master ∧ s.params.PreambleFree ∧ (3#8).toNat ≤ 26 ∧ [0xAA#8].length ≤ 26 ∧
      s.host = [.wr 0#8 (ctrlWord 4#3 0x03#8 3#8)] ∧ s.acks = .ok :: .ok :: [] ∧ as.filterMap id = wireFrame s.params 0x03#8 [0xAA#8] ∧
      as.count none < s.timeout.toNat ∧ as.getLast? ≠ some none ∧ s.rx = as ++ [] := by decide

/-- V-M5. -/
theorem witness_SendActionCompletes :
    let as : List (Option Byte) := [some 0xAA#8, some 0x03#8, some 0x07#8, some 0x00#8, some 0x0C#8, some 0x5B#8]
    let s := { blank .master with timeout := 1#32, arg := cells 26 [0x01#8], host := [.wr 0#8 (ctrlWord 5#3 0x07#8 1#8)], acks := [.ok, .ok],
                                  rx := as }
    s.busy = false ∧ s.params.role = .master ∧ s.params.PreambleFree ∧ [0x01#8].length = (1#8).toNat ∧ (1#8).toNat ≤ 26 ∧
      (∀ i (h : i < [0x01#8].length), readCell s.arg i = .known [0x01#8][i]) ∧ s.host = [.wr 0#8 (ctrlWord 5#3 0x07#8 1#8)] ∧
      s.acks = .ok :: .ok :: [] ∧ as.filterMap id = wireFrame s.params 0x07#8 [0x00#8] ∧ as.count none < s.timeout.toNat ∧
      as.getLast? ≠ some none ∧ s.rx = as ++ [] := by decide

/-- V-S9: a read command with a payload of two bytes. -/
theorem witness_HandleServesReadCommand :
    let as : List (Option Byte) := [some 0xAA#8, some 0x04#8, some 0x03#8, some 0x10#8, some 0x20#8, some 0x30#8, some 0x70#8]
    let data : List Byte := [0x00#8, 0x01#8, 0x01#8, 0x02#8, 0x01#8, 0x00#8, 0x40#8]
    let s := { blank .slave with timeout := 1#32, app := data, host := [.wr 0#8 (ctrlWord 6#3 0 0)], acks := [.ok], rx := as }
    s.busy = false ∧ s.params.role = .slave ∧ s.params.PreambleFree ∧ cmdTable s.params 0x03#8 = .read 7 ∧ [0x10#8, 0x20#8].length ≤ 26 ∧
      data.length = (7 : PayloadLen).val ∧ s.app = data ++ [] ∧ s.host = [.wr 0#8 (ctrlWord 6#3 0 0)] ∧ s.acks = .ok :: [] ∧
      as.filterMap id = wireFrame s.params 0x03#8 [0x10#8, 0x20#8] ∧ as.count none < s.timeout.toNat ∧ as.getLast? ≠ some none ∧
      s.rx = as ++ [] := by decide

/-- V-S10: a write command with two bytes more than its argument. -/
theorem witness_HandleServesWriteCommand :
    let as : List (Option Byte) := [some 0xAA#8, some 0x05#8, some 0x07#8, some 0x01#8, some 0x02#8, some 0x03#8, some 0x02#8, some 0x47#8]
    let s := { blank .slave with timeout := 1#32, app := [0x00#8], host := [.wr 0#8 (ctrlWord 6#3 0 0)], acks := [.ok], rx := as }
    s.busy = false ∧ s.params.role = .slave ∧ s.params.PreambleFree ∧ cmdTable s.params 0x07#8 = .write 1 ∧
      [0x01#8, 0x02#8, 0x03#8].length ≤ 26 ∧ s.app = 0x00#8 :: [] ∧
      s.host = [.wr 0#8 (ctrlWord 6#3 0 0)] ∧ s.acks = .ok :: [] ∧
      as.filterMap id = wireFrame s.params 0x07#8 [0x01#8, 0x02#8, 0x03#8] ∧ as.count none < s.timeout.toNat ∧ as.getLast? ≠ some none ∧
      s.rx = as ++ [] := by decide

/-- V-S7: a write command with no payload; the setter is called with a free byte. -/
theorem witness_HandleServesWriteCommand_short :
    let as : List (Option Byte) := [some 0xAA#8, some 0x02#8, some 0x07#8, some 0x0B#8, some 0x8A#8]
    let s := { blank .slave with timeout := 1#32, app := [0x00#8], host := [.wr 0#8 (ctrlWord 6#3 0 0)], acks := [.ok], rx := as }
    s.busy = false ∧ s.params.role = .slave ∧ s.params.PreambleFree ∧ cmdTable s.params 0x07#8 = .write 1 ∧ s.app = 0x00#8 :: [] ∧
      s.host = [.wr 0#8 (ctrlWord 6#3 0 0)] ∧ s.acks = .ok :: [] ∧ as.filterMap id = wireFrame s.params 0x07#8 [] ∧
      as.count none < s.timeout.toNat ∧ as.getLast? ≠ some none ∧ s.rx = as ++ [] := by decide

/-- V-S3. -/
theorem witness_HandleAnswersUnsupportedCommand :
    let as : List (Option Byte) := [some 0xAA#8, some 0x03#8, some 0x55#8, some 0x00#8, some 0x64#8, some 0x86#8]
    let s := { blank .slave with timeout := 1#32, host := [.wr 0#8 (ctrlWord 6#3 0 0)], acks := [.ok], rx := as }
    s.busy = false ∧ s.params.role = .slave ∧ s.params.PreambleFree ∧ cmdTable s.params 0x55#8 = .unsupported ∧ [0x00#8].length ≤ 26 ∧
      s.host = [.wr 0#8 (ctrlWord 6#3 0 0)] ∧ s.acks = .ok :: [] ∧ as.filterMap id = wireFrame s.params 0x55#8 [0x00#8] ∧
      as.count none < s.timeout.toNat ∧ as.getLast? ≠ some none ∧ s.rx = as ++ [] := by decide

end Sys2Proof.Tests
end

section
/-! PROOFS. Inversion of the step: everything that the start of an operation (R22), the dispatch of a command (R191), the end of a decode (R122)
and the block's own step (R46) can do, one constructor a way. The whole-machine rules below are case analyses over these relations. -/

namespace Sys2Proof.Machine

/-! ### The ways an instruction goes on -/

/-- The states a `CTRL` write can start an operation in `s` to (R91 to R98, R170, R190). -/
inductive Started (s : State) : State → Prop
  /-- The operation ends in the step of the write; an ENCODE may have filled the transmit buffer. -/
  | ended (op : BitVec 3) (c l : Byte) (code : ResultCode) (k : Nat) (b : Vector (Val 8) 64) (n : BitVec 7)
      (hn : n = s.txLen ∨ (overhead ≤ n.toNat ∧ n.toNat ≤ overhead + payloadCap)) :
      Started s (({ s.start op c l with draws := k, txb := b, txLen := n } : State).finish code)
  /-- DECODE, or HANDLE in a slave. -/
  | decoding (op : BitVec 3) (c l : Byte) (hop : op = opDecode ∨ (s.params.role = .slave ∧ op = opHandle)) :
      Started s (beginDecode (s.start op c l))
  /-- REQUEST_DATA or SEND_ACTION in a master. -/
  | request (op : BitVec 3) (c l : Byte) (payload : List (Val 8)) (hr : s.params.role = .master)
      (hop : op = opRequestData ∨ op = opSendAction) (hl : l.toNat ≤ payloadCap) (hp : payload.length ≤ payloadCap) :
      Started s (sendRequest payload (s.start op c l))

/-- An operation that ends in the step of its write and leaves the transmit buffer alone. -/
theorem Started.ended_at (s : State) (op : BitVec 3) (c l : Byte) (code : ResultCode) : Started s ((s.start op c l).finish code) :=
  .ended op c l code s.draws s.txb s.txLen (.inl rfl)

theorem validateFrame_started (c l : Byte) (s : State) : Started s (validateFrame (s.start opValidate c l)) := by
  unfold validateFrame
  split
  · exact .ended opValidate c l _ (s.draws + 1) s.txb s.txLen (.inl rfl)
  · exact .ended_at ..

theorem encodeArgs_started (c l : Byte) (s : State) : Started s (encodeArgs (s.start opEncode c l)) := by
  unfold encodeArgs
  split
  · exact .ended_at ..
  · rcases encodeFrame_cases (s.start opEncode c l).reqCmd (s.start opEncode c l).argCells (s.start opEncode c l) with ⟨h, e⟩ | ⟨_, e⟩
    all_goals rw [e]
    · exact .ended opEncode c l .ok _ _ _ (.inr (txLen_frame h).2)
    · exact .ended_at ..

theorem requestDataStart_started (c l : Byte) (s : State) : Started s (requestDataStart (s.start opRequestData c l)) := by
  unfold requestDataStart
  split
  · exact .ended_at ..
  next hr =>
    split
    · exact .ended_at ..
    next hl => exact .request _ _ _ _ (not_not.1 hr) (.inl rfl) (Nat.le_of_not_lt hl) (Nat.zero_le _)

theorem sendActionStart_started (c l : Byte) (s : State) : Started s (sendActionStart (s.start opSendAction c l)) := by
  unfold sendActionStart
  split
  · exact .ended_at ..
  next hr =>
    split
    · exact .ended_at ..
    next hl =>
      have hl' : (s.start opSendAction c l).reqLen.toNat ≤ payloadCap := Nat.le_of_not_lt hl
      exact .request _ _ _ _ (not_not.1 hr) (.inr rfl) hl' (by rw [State.argCells_length hl']; exact hl')

theorem handleStart_started (c l : Byte) (s : State) : Started s (handleStart (s.start opHandle c l)) := by
  unfold handleStart
  split
  · exact .ended_at ..
  next hr => exact .decoding _ _ _ (.inr ⟨not_not.1 hr, rfl⟩)

/-- R22, R91, R98: what the `CTRL` word `w` starts. -/
theorem exec_decodeCtrl (w : Word) (s : State) : ∃ t, exec (decodeCtrl w) s = .next t ∧ Started s t := by
  unfold decodeCtrl
  split
  · exact ⟨_, rfl, .decoding _ _ _ (.inl rfl)⟩
  split
  · exact ⟨_, rfl, validateFrame_started _ _ s⟩
  split
  · exact ⟨_, rfl, encodeArgs_started _ _ s⟩
  split
  · exact ⟨_, rfl, requestDataStart_started _ _ s⟩
  split
  · exact ⟨_, rfl, sendActionStart_started _ _ s⟩
  split
  · exact ⟨_, rfl, handleStart_started _ _ s⟩
  split
  · exact ⟨_, rfl, .ended_at s opIllegal7 _ _ _⟩
  · exact ⟨_, rfl, .ended_at s opIllegal0 _ _ _⟩

/-- The states HANDLE dispatches a command in `s` to (R194, R195, R196). -/
inductive Dispatched (s : State) : State → Prop
  | read (c : Byte) (m : PayloadLen) : Dispatched s (dispatchRead c m s)
  | write (c : Byte) (m : PayloadLen) : Dispatched s (dispatchWrite c m s)
  | unsupported (c : Byte) : Dispatched s (dispatchUnsupported c s)

/-- R191, R210: what the command byte `b` is dispatched to. -/
theorem exec_decodeWire (p : Params) (b : Byte) (s : State) : ∃ t, exec (decodeWire p b) s = .next t ∧ Dispatched s t := by
  unfold decodeWire
  split
  · exact ⟨_, rfl, .read _ _⟩
  split
  · exact ⟨_, rfl, .write _ _⟩
  split
  · exact ⟨_, rfl, .write _ _⟩
  split
  · refine ⟨_, rfl, ?_⟩
    unfold getShutterAction
    split
    · exact .read _ _
    · exact .unsupported _
  split
  · exact ⟨_, rfl, .write _ _⟩
  split
  · exact ⟨_, rfl, .read _ _⟩
  split
  · exact ⟨_, rfl, .read _ _⟩
  split
  · exact ⟨_, rfl, .write _ _⟩
  split
  · exact ⟨_, rfl, .read _ _⟩
  · exact ⟨_, rfl, .unsupported _⟩

/-! ### The ways an operation goes on when its decode has ended -/

/-- The states that a decode which ended with `c` in `s` leads to (R124, R175, R191). -/
inductive DecodeFollowed (c : ResultCode) (s : State) : State → Prop
  /-- A failed decode, or a DECODE, ends with the decode's own code. -/
  | ended (code : ResultCode) : DecodeFollowed c s (s.finish code)
  /-- The frame is discarded: its checksum, or the command echo, does not match. -/
  | discarded (code : ResultCode) : DecodeFollowed c s (s.drawn.discardFrame.finish code)
  /-- A REQUEST_DATA accepts its reply (R173). -/
  | copied (hc : c = .ok) (hop : s.op = opRequestData) : DecodeFollowed c s ((copyOut s.drawn).finish .ok)
  /-- A SEND_ACTION accepts its reply (R179). -/
  | status : DecodeFollowed c s ((takeStatus s.drawn).finish .ok)
  /-- A HANDLE dispatches the command it has received. -/
  | dispatched (t : State) (hc : c = .ok) (hop : s.op = opHandle) (ht : Dispatched s.drawn t) : DecodeFollowed c s t

/-- R175: what the checks of a reply lead to. -/
theorem checkReply_followed (accept : State → State) (c : ResultCode) (s : State)
    (hacc : c = .ok → DecodeFollowed c s ((accept s.drawn).finish .ok)) : DecodeFollowed c s (checkReply accept c s) := by
  unfold checkReply
  split
  · exact .ended _
  next hc =>
    split
    · exact .discarded _
    split
    · exact .discarded _
    · exact hacc (not_not.1 hc)

/-- R191 to R193: what HANDLE does with a decode that ended. -/
theorem handleFrame_followed {c : ResultCode} {s t : State} (hop : s.op = opHandle) (h : handleFrame c s = .next t) :
    DecodeFollowed c s t := by
  unfold handleFrame at h
  split at h
  · cases h; exact .ended _
  next hc =>
    split at h
    · cases h; exact .discarded _
    · obtain ⟨u, hu, hd⟩ := exec_decodeWire s.params s.frameCmd s.drawn
      have htu : t = u := Host.Outcome.next.inj (h.symm.trans hu)
      exact .dispatched t (not_not.1 hc) hop (htu ▸ hd)

theorem afterDecode_followed {c : ResultCode} {s t : State} (h : afterDecode c s = .next t) : DecodeFollowed c s t := by
  unfold afterDecode at h
  split at h
  · cases h; exact .ended _
  split at h
  next hop => cases h; exact checkReply_followed _ _ _ fun hc => .copied hc hop
  split at h
  · cases h; exact checkReply_followed _ _ _ fun _ => .status
  split at h
  next hop => exact handleFrame_followed hop h
  · cases h

/-! ### The ways of the block's own step -/

/-- The states that the block's own step leads to (R46), by the port event that `TSTATE` waits on. -/
inductive BlockMoved (s : State) : State → Prop
  | requestWritten (ht : s.tstate = .writeRequest) : BlockMoved s { (portWrite s).2 with tstate := .reserve }
  | requestRefused (ht : s.tstate = .writeRequest) : BlockMoved s ((portWrite s).2.finish .txFailed)
  | reserved (ht : s.tstate = .reserve) : BlockMoved s (beginDecode (portReserve s.reserveCount s).2)
  | reserveRefused (ht : s.tstate = .reserve) : BlockMoved s ((portReserve s.reserveCount s).2.finish .requestFailed)
  | getterAnswered (c : Byte) (m : PayloadLen) (ht : s.tstate = .appGet c m) : BlockMoved s (appGetStep c m s)
  | setterAnswered (c : Byte) (m : PayloadLen) (ht : s.tstate = .appSet c m) : BlockMoved s (appSetStep c m s)
  | replyWritten (r code : ResultCode) (ht : s.tstate = .writeReply r) : BlockMoved s ((portWrite s).2.finish code)
  /-- R113, R114: the decode ends with no `POLL`. -/
  | decodeFailed (c : ResultCode) (t : State) (ht : s.tstate = .poll) (hc : c ≠ .ok) (h : DecodeFollowed c (s.decodeEnd c) t) : BlockMoved s t
  | pollFailed (ht : s.tstate = .poll) (hp : Polls s) (ha : nextPoll s = none) :
      BlockMoved s (portNoByte { (portPoll s).2 with ticks := s.ticks - 1 })
  | lengthTaken (b : Byte) (ht : s.tstate = .poll) (hp : Polls s) (ha : nextPoll s = some b) (hd : s.dstate = .seekLength) :
      BlockMoved s (takeLength b (portPoll s).2)
  | commandTaken (b : Byte) (ht : s.tstate = .poll) (hp : Polls s) (ha : nextPoll s = some b) (hd : s.dstate = .readCommand) :
      BlockMoved s (takeCommand b (portPoll s).2)
  | payloadTaken (b : Byte) (ht : s.tstate = .poll) (hp : Polls s) (ha : nextPoll s = some b) (hd : s.dstate = .readPayload) :
      BlockMoved s (takePayload b (portPoll s).2)
  | checksumHiTaken (b : Byte) (ht : s.tstate = .poll) (hp : Polls s) (ha : nextPoll s = some b) (hd : s.dstate = .readChecksumHi) :
      BlockMoved s (takeChecksumHi b (portPoll s).2)
  /-- R120, R122: the last checksum byte ends the decode. -/
  | frameTaken (b : Byte) (t : State) (ht : s.tstate = .poll) (hp : Polls s) (ha : nextPoll s = some b) (hd : s.dstate = .readChecksumLo)
      (h : DecodeFollowed .ok ((takeChecksumLo b (portPoll s).2).decodeEnd .ok) t) : BlockMoved s t

theorem writeRequestStep_moved {s : State} (ht : s.tstate = .writeRequest) : BlockMoved s (writeRequestStep s) := by
  unfold writeRequestStep
  split
  next s' e =>
    obtain rfl : s' = (portWrite s).2 := by rw [e]
    exact .requestWritten ht
  next s' e =>
    obtain rfl : s' = (portWrite s).2 := by rw [e]
    exact .requestRefused ht

theorem reserveStep_moved {s : State} (ht : s.tstate = .reserve) : BlockMoved s (reserveStep s) := by
  unfold reserveStep
  split
  next s' e =>
    obtain rfl : s' = (portReserve s.reserveCount s).2 := by rw [e]
    exact .reserved ht
  next s' e =>
    obtain rfl : s' = (portReserve s.reserveCount s).2 := by rw [e]
    exact .reserveRefused ht

theorem writeReplyStep_moved {s : State} {r : ResultCode} (ht : s.tstate = .writeReply r) : BlockMoved s (writeReplyStep r s) := by
  unfold writeReplyStep
  split
  next s' e =>
    obtain rfl : s' = (portWrite s).2 := by rw [e]
    exact .replyWritten _ _ ht
  next s' e =>
    obtain rfl : s' = (portWrite s).2 := by rw [e]
    exact .replyWritten _ _ ht

theorem pollStep_none {s : State} (h : nextPoll s = none) :
    pollStep s = .next (portNoByte { (portPoll s).2 with ticks := s.ticks - 1 }) := by
  have e : portPoll s = (none, (portPoll s).2) := by rw [← h]; rfl
  rw [pollStep, e]
  rfl

theorem pollStep_some {s : State} {b : Byte} (h : nextPoll s = some b) : pollStep s = takeByte b (portPoll s).2 := by
  have e : portPoll s = (some b, (portPoll s).2) := by rw [← h]; rfl
  rw [pollStep, e]

theorem pollStep_moved {s t : State} (ht : s.tstate = .poll) (hp : Polls s) (h : pollStep s = .next t) : BlockMoved s t := by
  cases ha : nextPoll s with
  | none =>
    rw [pollStep_none ha] at h
    cases h; exact .pollFailed ht hp ha
  | some b =>
    rw [pollStep_some ha] at h
    unfold takeByte at h
    split at h
    next hd => exact absurd hd hp.1
    next hd => cases h; exact .lengthTaken b ht hp ha hd
    next hd => cases h; exact .commandTaken b ht hp ha hd
    next hd => cases h; exact .payloadTaken b ht hp ha hd
    next hd => cases h; exact .checksumHiTaken b ht hp ha hd
    next hd => exact .frameTaken b t ht hp ha hd (afterDecode_followed h)

theorem decodeStep_moved {s t : State} (ht : s.tstate = .poll) (h : decodeStep s = .next t) : BlockMoved s t := by
  unfold decodeStep at h
  split at h
  · cases h
  next hd =>
    split at h
    · exact .decodeFailed .overflow t ht (by decide) (afterDecode_followed h)
    next ho =>
      split at h
      · exact .decodeFailed .timeout t ht (by decide) (afterDecode_followed h)
      next hk => exact pollStep_moved ht ⟨hd, ho, hk⟩ h

theorem blockStep_moved {s t : State} (h : blockStep s = .next t) : BlockMoved s t := by
  cases ht : s.tstate with
  | idle => rw [blockStep, ht] at h; cases h
  | writeRequest => rw [blockStep_writeRequest ht] at h; cases h; exact writeRequestStep_moved ht
  | reserve => rw [blockStep_reserve ht] at h; cases h; exact reserveStep_moved ht
  | poll => rw [blockStep_poll ht] at h; exact decodeStep_moved ht h
  | appGet c m => rw [blockStep_appGet ht] at h; cases h; exact .getterAnswered c m ht
  | appSet c m => rw [blockStep_appSet ht] at h; cases h; exact .setterAnswered c m ht
  | writeReply r => rw [blockStep_writeReply ht] at h; cases h; exact writeReplyStep_moved ht

/-! ### The ways of a step -/

/-- The states that a step of the machine leads to (R46, R250). -/
inductive Stepped (s : State) : State → Prop
  | block (h : List HostAct) (t : State) (hh : s.host = h ∨ s.host = .block :: h) (hb : s.busy = true)
      (hm : BlockMoved { s with host := h } t) : Stepped s t
  | start (h : List HostAct) (t : State) (w : Word) (hh : s.host = .wr 0#8 w :: h) (hb : s.busy = false)
      (hm : Started { s with host := h } t) : Stepped s t
  | store (h : List HostAct) (n : Byte) (v : Word) (hh : s.host = .wr n v :: h) : Stepped s (({ s with host := h } : State).hostStore n v)
  | read (h : List HostAct) (n : Byte) (hh : s.host = .rd n :: h) : Stepped s (({ s with host := h } : State).hostRead n)
  | reset (h : List HostAct) (hh : s.host = .reset :: h) : Stepped s ({ s with host := h } : State).hardReset
  | idle (h : List HostAct) (hb : s.busy = false) : Stepped s { s with host := h }

theorem step_stepped {s t : State} (h : step s = .next t) : Stepped s t := by
  rcases step_cases s with ⟨l, hh, hb, e⟩ | ⟨l, w, hh, hb, e⟩ | ⟨l, n, v, hh, e⟩ | ⟨l, n, hh, e⟩ | ⟨l, hh, e⟩ | ⟨l, _, hb, e⟩
  · exact .block l t hh hb (blockStep_moved (e ▸ h))
  · obtain ⟨u, hu, hs⟩ := exec_decodeCtrl w { s with host := l }
    have htu : t = u := Host.Outcome.next.inj (h.symm.trans (e.trans hu))
    exact .start l t w hh hb (htu ▸ hs)
  all_goals
    cases h.symm.trans e
  · exact .store l n v hh
  · exact .read l n hh
  · exact .reset l hh
  · exact .idle l hb

end Sys2Proof.Machine
end

section
/-! PROOFS. The invariant: it holds after reset, and each way of a step keeps it. -/

namespace Sys2Proof.Machine

/-! ### Reading the invariant -/

theorem Inv.busy_of_tstate {s : State} (h : Inv s) (ht : s.tstate ≠ .idle) : s.busy = true := h.busy_iff.2 ht

theorem Inv.not_done {s : State} (h : Inv s) (hb : s.busy = true) : s.done = false := by
  cases hd : s.done with
  | false => rfl
  | true => exact absurd ⟨hb, hd⟩ h.not_busy_done

theorem Inv.tstate_idle {s : State} (h : Inv s) (hb : s.busy = false) : s.tstate = .idle := by
  by_contra ht
  rw [h.busy_of_tstate ht] at hb
  cases hb

theorem Inv.dstate_idle {s : State} (h : Inv s) (ht : s.tstate ≠ .poll) : s.dstate = .idle := by
  by_contra hd
  exact ht (h.poll_iff.2 hd)

/-- The registers that `RegsOk` speaks of are all it looks at. -/
theorem RegsOk.congr {s t : State} (h : RegsOk s) (hp : t.params = s.params) (hi : t.idx = s.idx) (hx : t.txLen = s.txLen)
    (ho : t.outLen = s.outLen) : RegsOk t :=
  ⟨hp ▸ h.params_ok, hi ▸ h.idx_le, hx ▸ h.txLen_range, ho ▸ h.outLen_le⟩

/-- A state with no frame held has no incomplete one. -/
theorem State.frameOk_of_invalid {s : State} (h : s.fvalid = false) : s.frameOk := by simp [State.frameOk, h]

theorem not_masterOp_of_handle {o : BitVec 3} (h : o = opHandle) : ¬ (o = opRequestData ∨ o = opSendAction) := by
  subst h; decide

/-- R97, R240: the only decoding operation with HANDLE's code is a slave's. -/
theorem Inv.role_of_handle {s : State} (h : Inv s) (ht : s.tstate = .poll) (hop : s.op = opHandle) : s.params.role = .slave := by
  have hpos := h.position
  simp only [State.positionFits, ht, hop] at hpos
  rcases hpos with e | ⟨_, e⟩ | ⟨hr, _⟩
  · exact absurd e (by decide)
  · exact absurd e (by decide)
  · exact hr

/-- The position of a decode in progress depends on the role and the operation alone (R97). -/
theorem State.positionFits_poll {s t : State} (h : s.positionFits) (hs : s.tstate = .poll) (ht : t.tstate = .poll) (hp : t.params = s.params)
    (hop : t.op = s.op) : t.positionFits := by
  simpa [State.positionFits, hs, ht, hp, hop] using h

/-! ### Reset (R41) -/

theorem Config.build_ok : Config.build.Ok := by
  unfold Config.build
  split
  next h => exact h
  · decide

theorem Inv.of_hardReset {s : State} (h : s.params.Ok) : Inv s.hardReset :=
  Inv.of_ended ⟨h, Nat.le_of_lt_succ (Config.freeIdx s.draws).isLt, .inl rfl, Nat.zero_le _⟩ (State.frameOk_of_invalid rfl) rfl rfl rfl

/-! ### Where a decode begins and where a frame is sent -/

/-- R111: the start of a decode by an operation that runs one. -/
theorem Inv.of_beginDecode {s : State} (hr : RegsOk s) (hb : s.busy = true) (hn : s.done = false)
    (hl : s.op = opRequestData ∨ s.op = opSendAction → s.reqLen.toNat ≤ payloadCap)
    (hop : s.op = opDecode ∨ (s.params.role = .master ∧ (s.op = opRequestData ∨ s.op = opSendAction)) ∨
      (s.params.role = .slave ∧ s.op = opHandle)) : Inv (beginDecode s) :=
  Inv.of_polling ⟨hr.params_ok, Nat.zero_le _, hr.txLen_range, hr.outLen_le⟩ hb hn rfl rfl (by simp [beginDecode]) hl hop rfl

/-- R152: the registers after a frame of at most 26 payload elements was built. -/
theorem RegsOk.of_frame {s t : State} {n : Nat} (h : RegsOk s) (hn : n ≤ payloadCap) (hx : t.txLen = BitVec.ofNat 7 (n + overhead))
    (hp : t.params = s.params) (hi : t.idx = s.idx) (ho : t.outLen = s.outLen) : RegsOk t :=
  ⟨hp ▸ h.params_ok, hi ▸ h.idx_le, .inr (hx ▸ (txLen_frame hn).2), ho ▸ h.outLen_le⟩

theorem Inv.of_sendReply {s : State} {r : ResultCode} {payload : List (Val 8)} (c : Byte) (hr : RegsOk s) (hf : s.frameOk) (hb : s.busy = true)
    (hn : s.done = false) (hd : s.dstate = .idle) (hs : s.params.role = .slave) (hop : s.op = opHandle) (hv : s.fvalid = true)
    (hc : r = .ok ∨ r = .notSupported) (hp : payload.length ≤ payloadCap) : Inv (sendReply r c payload s) := by
  rw [sendReply_eq r c s hp]
  exact Inv.of_waiting (hr.of_frame hp rfl rfl rfl rfl) hf hb hn hd (by simp) (by simp)
    (fun h => absurd h (not_masterOp_of_handle hop)) ⟨hs, hop, hv, hc, (txLen_frame hp).1⟩

theorem Inv.of_sendRequest {s : State} {payload : List (Val 8)} (hr : RegsOk s) (hf : s.frameOk) (hb : s.busy = true) (hn : s.done = false)
    (hd : s.dstate = .idle) (hm : s.params.role = .master) (hop : s.op = opRequestData ∨ s.op = opSendAction)
    (hl : s.reqLen.toNat ≤ payloadCap) (hp : payload.length ≤ payloadCap) : Inv (sendRequest payload s) := by
  rw [sendRequest_eq s hp]
  exact Inv.of_waiting (hr.of_frame hp rfl rfl rfl rfl) hf hb hn hd (by simp) (by simp) (fun _ => hl) ⟨hm, hop, (txLen_frame hp).1⟩

/-! ### The start of an operation -/

/-- Every operation starts from an idle block, and waits or has ended. -/
theorem Started.inv {s t : State} (h : Started s t) (hi : Inv s) (hb : s.busy = false) : Inv t := by
  have hd : s.dstate = .idle := hi.dstate_idle (by simp [hi.tstate_idle hb])
  cases h with
  | ended op c l code k b n hn =>
    have hx : n = 0#7 ∨ (overhead ≤ n.toNat ∧ n.toNat ≤ overhead + payloadCap) := by
      rcases hn with rfl | hn
      · exact hi.txLen_range
      · exact .inr hn
    exact Inv.of_finish _ ⟨hi.params_ok, hi.idx_le, hx, hi.outLen_le⟩ hi.frameOk
  | decoding op c l hop =>
    have hne : ¬ (op = opRequestData ∨ op = opSendAction) := by
      rcases hop with rfl | ⟨_, rfl⟩ <;> decide
    exact Inv.of_beginDecode (hi.regs.congr rfl rfl rfl rfl) rfl rfl (fun h => absurd h hne) (hop.imp_right .inr)
  | request op c l payload hr hop hl hp =>
    exact Inv.of_sendRequest (hi.regs.congr rfl rfl rfl rfl) hi.frameOk rfl rfl hd hr hop hl hp

/-! ### The end of a decode -/

/-- A HANDLE in progress that holds a frame (R191). -/
structure Serving (s : State) : Prop where
  regs : RegsOk s
  frame : s.frameOk
  busy : s.busy = true
  done : s.done = false
  dstate : s.dstate = .idle
  role : s.params.role = .slave
  op : s.op = opHandle
  fvalid : s.fvalid = true

theorem Dispatched.inv {s t : State} (h : Dispatched s t) (hs : Serving s) : Inv t := by
  have hl : s.op = opRequestData ∨ s.op = opSendAction → s.reqLen.toNat ≤ payloadCap :=
    fun h => absurd h (not_masterOp_of_handle hs.op)
  cases h with
  | read c m =>
    exact Inv.of_waiting (hs.regs.congr rfl rfl rfl rfl) hs.frame hs.busy hs.done hs.dstate (by simp [dispatchRead]) (by simp [dispatchRead])
      hl ⟨hs.role, hs.op, hs.fvalid⟩
  | write c m =>
    exact Inv.of_waiting (hs.regs.congr rfl rfl rfl rfl) hs.frame hs.busy hs.done hs.dstate (by simp [dispatchWrite]) (by simp [dispatchWrite])
      hl ⟨hs.role, hs.op, hs.fvalid⟩
  | unsupported c =>
    exact Inv.of_sendReply c (hs.regs.congr rfl rfl rfl rfl) hs.frame hs.busy hs.done hs.dstate hs.role hs.op hs.fvalid (.inr rfl) (by simp)

/-- Whatever follows the end of a decode meets the invariant; only what follows a successful one (`c = .ok`) looks at the operation. -/
theorem DecodeFollowed.inv {c : ResultCode} {s t : State} (h : DecodeFollowed c s t) (hr : RegsOk s) (hf : s.frameOk)
    (hl : s.op = opRequestData → s.reqLen.toNat ≤ payloadCap) (hs : c = .ok → s.op = opHandle → Serving s) : Inv t := by
  cases h with
  | ended code => exact Inv.of_finish _ hr hf
  | discarded code => exact Inv.of_finish _ (hr.congr rfl rfl rfl rfl) (State.frameOk_of_invalid rfl)
  | copied hc hop => exact Inv.of_finish _ ⟨hr.params_ok, hr.idx_le, hr.txLen_range, hl hop⟩ hf
  | status => exact Inv.of_finish _ (hr.congr rfl rfl rfl rfl) hf
  | dispatched t hc hop ht =>
    obtain ⟨regs, frame, busy, done, dstate, role, op, fvalid⟩ := hs hc hop
    exact ht.inv ⟨regs.congr rfl rfl rfl rfl, frame, busy, done, dstate, role, op, fvalid⟩

/-! ### A received byte -/

theorem State.payloadKnown_succ {s t : State} {b : Byte} (h : s.payloadKnown s.idx) (hi : s.idx < payloadCap)
    (ht : t.fPay = writeCell s.fPay s.idx (.known b)) : t.payloadKnown (s.idx + 1) := by
  intro i hlt
  rw [ht, readCell_writeCell]
  split
  · rfl
  · exact h i (by simp only [payloadCap_eq] at hi; omega)

/-- A byte that leaves the decode in progress keeps the invariant if it keeps the decoder's own part of it. -/
theorem Inv.of_byteTaken {s t : State} (hi : Inv s) (ht : s.tstate = .poll) (hx : t.idx ≤ payloadCap) (hd : t.dstate ≠ .idle) (hs : t.decodeShape)
    (e : t = { s with rx := t.rx, draws := t.draws, ticks := t.ticks, trace := t.trace, fLen := t.fLen, fCmd := t.fCmd, fPay := t.fPay,
                      fCrcHi := t.fCrcHi, idx := t.idx, dstate := t.dstate }) : Inv t := by
  have hni : s.tstate ≠ .idle := by simp [ht]
  have hb := hi.busy_of_tstate hni
  have htt : t.tstate = .poll := by rw [e]; exact ht
  have hpos : t.positionFits := State.positionFits_poll hi.position ht htt (by rw [e]) (by rw [e])
  refine Inv.of_polling ⟨?_, hx, ?_, ?_⟩ ?_ ?_ ?_ htt hd ?_ hpos hs <;> rw [e]
  · exact hi.params_ok
  · exact hi.txLen_range
  · exact hi.outLen_le
  · exact hb
  · exact hi.not_done hb
  · exact hi.decoding_invalid (hi.poll_iff.1 ht)
  · exact hi.reqLen_le hni

theorem takeLength_cases (b : Byte) (s : State) :
    takeLength b s = s ∨ takeLength b s = { s with fLen := .known b, dstate := .readCommand } := by
  unfold takeLength
  split
  · exact .inl rfl
  · exact .inr rfl

theorem takeLength_shape {s : State} (b : Byte) (hd : s.dstate = .seekLength) (h : s.decodeShape) : (takeLength b s).decodeShape := by
  have hi : s.idx = 0 := by simpa [State.decodeShape, hd] using h
  unfold takeLength
  split
  · exact h
  next hb => exact ⟨hi, b, rfl, hb⟩

theorem takeCommand_shape {s : State} (b : Byte) (hd : s.dstate = .readCommand) (h : s.decodeShape) : (takeCommand b s).decodeShape := by
  obtain ⟨hi, l, hl, hne⟩ : s.idx = 0 ∧ ∃ l, s.fLen = .known l ∧ l ≠ s.params.preamble := by simpa [State.decodeShape, hd] using h
  by_cases hp : headerLen < l.toNat
  · have e : (takeCommand b s).dstate = .readPayload := by simp only [takeCommand, hl, Val.value_known, if_pos hp]
    simp only [State.decodeShape, e]
    refine ⟨l, hl, hne, rfl, ?_, ?_⟩
    · show s.idx + headerLen < l.toNat
      omega
    · show State.payloadKnown _ s.idx
      rw [hi]
      exact fun i hlt => absurd hlt (Nat.not_lt_zero i)
  · have e : (takeCommand b s).dstate = .readChecksumHi := by simp only [takeCommand, hl, Val.value_known, if_neg hp]
    simp only [State.decodeShape, e]
    simp only [headerLen_eq] at hp
    refine ⟨l, hl, hne, by simp only [maxLength_eq]; omega, rfl, fun i hlt => ?_⟩
    simp only [payloadDue, headerLen_eq] at hlt
    omega

theorem takePayload_shape {s : State} (b : Byte) (hd : s.dstate = .readPayload) (hx : s.idx < payloadCap) (h : s.decodeShape) :
    (takePayload b s).decodeShape := by
  obtain ⟨l, hl, hne, hc, hlt, hk⟩ : ∃ l, s.fLen = .known l ∧ l ≠ s.params.preamble ∧ s.fCmd.isKnown = true ∧
      s.idx + headerLen < l.toNat ∧ s.payloadKnown s.idx := by simpa [State.decodeShape, hd] using h
  have hk' : (takePayload b s).payloadKnown (s.idx + 1) := State.payloadKnown_succ hk hx rfl
  simp only [headerLen_eq, payloadCap_eq] at hlt hx
  by_cases hp : s.idx + 1 + headerLen = l.toNat
  · have e : (takePayload b s).dstate = .readChecksumHi := by simp only [takePayload, hl, Val.value_known, if_pos hp]
    have hdue : payloadDue l = s.idx + 1 := by simp only [payloadDue, headerLen_eq] at *; omega
    simp only [State.decodeShape, e]
    simp only [headerLen_eq] at hp
    exact ⟨l, hl, hne, by simp only [maxLength_eq]; omega, hc, hdue ▸ hk'⟩
  · have e : (takePayload b s).dstate = .readPayload := by simp only [takePayload, hl, Val.value_known, if_neg hp]
    simp only [State.decodeShape, e]
    simp only [headerLen_eq] at hp
    refine ⟨l, hl, hne, hc, ?_, hk'⟩
    show s.idx + 1 + 2 < l.toNat
    omega

theorem takeChecksumHi_shape {s : State} (b : Byte) (hd : s.dstate = .readChecksumHi) (h : s.decodeShape) :
    (takeChecksumHi b s).decodeShape := by
  have hf : s.holdsFrame := by simpa [State.decodeShape, hd] using h
  exact ⟨hf, rfl⟩

theorem Inv.of_takeLength {s : State} (hi : Inv s) (b : Byte) (ht : s.tstate = .poll) (hd : s.dstate = .seekLength) :
    Inv (takeLength b s) := by
  have hs := takeLength_shape b hd hi.decode_shape
  rcases takeLength_cases b s with e | e <;> rw [e] at hs ⊢
  · exact hi
  · exact hi.of_byteTaken ht hi.idx_le (by simp) hs rfl

theorem Inv.of_takeCommand {s : State} (hi : Inv s) (b : Byte) (ht : s.tstate = .poll) (hd : s.dstate = .readCommand) :
    Inv (takeCommand b s) := by
  have hne : (takeCommand b s).dstate ≠ .idle := by unfold takeCommand; dsimp only; split <;> simp
  exact hi.of_byteTaken ht hi.idx_le hne (takeCommand_shape b hd hi.decode_shape) rfl

theorem Inv.of_takePayload {s : State} (hi : Inv s) (b : Byte) (ht : s.tstate = .poll) (hd : s.dstate = .readPayload)
    (hx : s.idx < payloadCap) : Inv (takePayload b s) := by
  have hne : (takePayload b s).dstate ≠ .idle := by unfold takePayload; dsimp only; split <;> simp
  exact hi.of_byteTaken ht hx hne (takePayload_shape b hd hx hi.decode_shape) rfl

theorem Inv.of_takeChecksumHi {s : State} (hi : Inv s) (b : Byte) (ht : s.tstate = .poll) (hd : s.dstate = .readChecksumHi) :
    Inv (takeChecksumHi b s) :=
  hi.of_byteTaken ht hi.idx_le (by simp [takeChecksumHi]) (takeChecksumHi_shape b hd hi.decode_shape) rfl

/-- R121: with the last checksum byte the frame is complete. -/
theorem takeChecksumLo_frameOk {s : State} (b : Byte) (hd : s.dstate = .readChecksumLo) (h : s.decodeShape) :
    ((takeChecksumLo b s).decodeEnd .ok).frameOk := by
  obtain ⟨hf, hhi⟩ : s.holdsFrame ∧ s.fCrcHi.isKnown = true := by simpa [State.decodeShape, hd] using h
  exact fun _ => ⟨hf, hhi, rfl⟩

theorem DecodeFollowed.inv_of_takeChecksumLo {s t : State} {b : Byte} (h : DecodeFollowed .ok ((takeChecksumLo b s).decodeEnd .ok) t)
    (hi : Inv s) (ht : s.tstate = .poll) (hd : s.dstate = .readChecksumLo) : Inv t := by
  have hb := hi.busy_of_tstate (by simp [ht])
  have hf := takeChecksumLo_frameOk b hd hi.decode_shape
  have hr : RegsOk ((takeChecksumLo b s).decodeEnd .ok) := hi.regs.congr rfl rfl rfl rfl
  exact h.inv hr hf (fun hop => hi.reqLen_le (by simp [ht]) (.inl hop))
    (fun _ hop => ⟨hr, hf, hb, hi.not_done hb, rfl, hi.role_of_handle ht hop, hop, rfl⟩)

theorem DecodeFollowed.inv_of_failed {s t : State} {c : ResultCode} (h : DecodeFollowed c (s.decodeEnd c) t) (hi : Inv s)
    (ht : s.tstate = .poll) (hc : c ≠ .ok) : Inv t :=
  h.inv (hi.regs.congr rfl rfl rfl rfl) (State.frameOk_of_invalid (by simp [hc])) (fun hop => hi.reqLen_le (by simp [ht]) (.inl hop))
    (fun e => absurd e hc)

/-! ### The port events -/

/-- The invariant does not look at the outside world's answers, nor at the record of events. -/
theorem Inv.withWorld {s : State} (h : Inv s) (rx : List (Option Byte)) (acks : List Ack) (app : List Byte) (draws : Nat)
    (trace : List PortEvent) : Inv { s with rx := rx, acks := acks, app := app, draws := draws, trace := trace } :=
  ⟨h.1, h.2, h.3, h.4, h.5, h.6, h.7, h.8, h.9, h.10, h.11, h.12⟩

theorem Inv.of_portPoll {s : State} (h : Inv s) : Inv (portPoll s).2 := h.withWorld ..

theorem Inv.of_portWrite {s : State} (h : Inv s) : Inv (portWrite s).2 := h.withWorld ..

theorem Inv.of_portReserve {s : State} (h : Inv s) (n : Byte) : Inv (portReserve n s).2 := h.withWorld ..

theorem Inv.of_portAppGet {s : State} (h : Inv s) (c : Byte) (m : Nat) : Inv (portAppGet c m s).2 := h.withWorld ..

theorem Inv.of_portAppSet {s : State} (h : Inv s) (c : Byte) (args : List (Val 8)) : Inv (portAppSet c args s).2 := h.withWorld ..

@[simp] theorem portPoll_tstate (s : State) : (portPoll s).2.tstate = s.tstate := rfl
@[simp] theorem portPoll_dstate (s : State) : (portPoll s).2.dstate = s.dstate := rfl
@[simp] theorem portPoll_idx (s : State) : (portPoll s).2.idx = s.idx := rfl
@[simp] theorem portWrite_tstate (s : State) : (portWrite s).2.tstate = s.tstate := rfl
@[simp] theorem portReserve_tstate (n : Byte) (s : State) : (portReserve n s).2.tstate = s.tstate := rfl
@[simp] theorem portAppGet_tstate (c : Byte) (m : Nat) (s : State) : (portAppGet c m s).2.tstate = s.tstate := rfl
@[simp] theorem portAppSet_tstate (c : Byte) (args : List (Val 8)) (s : State) : (portAppSet c args s).2.tstate = s.tstate := rfl

/-! ### The block's own step -/

theorem Inv.finish {s : State} (h : Inv s) (c : ResultCode) : Inv (s.finish c) := Inv.of_finish c h.regs h.frameOk

/-- R172: a request that was written waits on its `RESERVE`. -/
theorem Inv.of_requestWritten {s : State} (h : Inv s) (ht : s.tstate = .writeRequest) : Inv { s with tstate := .reserve } := by
  have hpos := h.position
  simp only [State.positionFits, ht] at hpos
  obtain ⟨hm, hop, _⟩ := hpos
  have hni : s.tstate ≠ .idle := by simp [ht]
  have hb := h.busy_of_tstate hni
  exact Inv.of_waiting (h.regs.congr rfl rfl rfl rfl) h.frameOk hb (h.not_done hb) (h.dstate_idle (by simp [ht])) (by simp) (by simp)
    (h.reqLen_le hni) ⟨hm, hop⟩

/-- R172: after the `RESERVE` the decode of the reply begins. -/
theorem Inv.of_reserved {s : State} (h : Inv s) (ht : s.tstate = .reserve) : Inv (beginDecode s) := by
  have hpos := h.position
  simp only [State.positionFits, ht] at hpos
  have hni : s.tstate ≠ .idle := by simp [ht]
  have hb := h.busy_of_tstate hni
  exact Inv.of_beginDecode h.regs hb (h.not_done hb) (h.reqLen_le hni) (.inr (.inl hpos))

/-- R115: a failed `POLL`. -/
theorem Inv.of_pollFailed {s : State} (h : Inv s) (ht : s.tstate = .poll) (k : Word) : Inv (portNoByte { s with ticks := k }) :=
  h.of_byteTaken ht h.idx_le (h.poll_iff.1 ht) h.decode_shape rfl

theorem Inv.room {s : State} (h : Inv s) (hp : Polls s) (hd : s.dstate = .readPayload) : s.idx < payloadCap :=
  Nat.lt_of_le_of_ne h.idx_le fun e => hp.2.1 ⟨hd, e⟩

/-- A HANDLE that waits on the application or on its reply's `WRITE` holds its frame. -/
theorem Inv.serving {s : State} (h : Inv s) (hni : s.tstate ≠ .idle) (hnp : s.tstate ≠ .poll)
    (hpos : s.params.role = .slave ∧ s.op = opHandle ∧ s.fvalid = true) : Serving s :=
  ⟨h.regs, h.frameOk, h.busy_of_tstate hni, h.not_done (h.busy_of_tstate hni), h.dstate_idle hnp, hpos.1, hpos.2.1, hpos.2.2⟩

/-- A HANDLE that has called the application holds its frame, so it can send its reply (R194, R195). -/
theorem Serving.inv_reply {s : State} (h : Serving s) (c : Byte) {payload : List (Val 8)} (hp : payload.length ≤ payloadCap) :
    Inv (sendReply .ok c payload s) :=
  Inv.of_sendReply c h.regs h.frame h.busy h.done h.dstate h.role h.op h.fvalid (.inl rfl) hp

theorem Serving.withAppStatus {s : State} (h : Serving s) (v : Val 8) : Serving { s with appStatus := v } :=
  ⟨h.regs.congr rfl rfl rfl rfl, h.frame, h.busy, h.done, h.dstate, h.role, h.op, h.fvalid⟩

theorem Inv.serving_of_appGet {s : State} {c : Byte} {m : PayloadLen} (h : Inv s) (ht : s.tstate = .appGet c m) : Serving s :=
  h.serving (by simp [ht]) (by simp [ht]) (by simpa only [State.positionFits, ht] using h.position)

theorem Inv.serving_of_appSet {s : State} {c : Byte} {m : PayloadLen} (h : Inv s) (ht : s.tstate = .appSet c m) : Serving s :=
  h.serving (by simp [ht]) (by simp [ht]) (by simpa only [State.positionFits, ht] using h.position)

theorem Inv.of_appGetStep {s : State} {c : Byte} {m : PayloadLen} (h : Inv s) (ht : s.tstate = .appGet c m) : Inv (appGetStep c m s) := by
  have hm : (knownCells (appBytes m.val s)).length ≤ payloadCap := by
    rw [knownCells_length, appBytes_length]; exact Nat.le_of_lt_succ m.isLt
  exact ((h.of_portAppGet c m.val).serving_of_appGet (by simpa using ht)).inv_reply c hm

theorem Inv.of_appSetStep {s : State} {c : Byte} {m : PayloadLen} (h : Inv s) (ht : s.tstate = .appSet c m) : Inv (appSetStep c m s) :=
  (((h.of_portAppSet c (takeCells s.fPay m.val)).serving_of_appSet (by simpa using ht)).withAppStatus _).inv_reply c
    (by simp)

/-- The block's own step keeps the invariant, whatever the port event is answered. -/
theorem BlockMoved.inv {s t : State} (h : BlockMoved s t) (hi : Inv s) : Inv t := by
  cases h with
  | requestWritten ht => exact hi.of_portWrite.of_requestWritten (by simpa using ht)
  | requestRefused ht => exact hi.of_portWrite.finish _
  | reserved ht => exact (hi.of_portReserve _).of_reserved (by simpa using ht)
  | reserveRefused ht => exact (hi.of_portReserve _).finish _
  | getterAnswered c m ht => exact hi.of_appGetStep ht
  | setterAnswered c m ht => exact hi.of_appSetStep ht
  | replyWritten r code ht => exact hi.of_portWrite.finish _
  | decodeFailed c t ht hc h => exact h.inv_of_failed hi ht hc
  | pollFailed ht hp ha => exact hi.of_portPoll.of_pollFailed (by simpa using ht) _
  | lengthTaken b ht hp ha hd => exact hi.of_portPoll.of_takeLength b (by simpa using ht) (by simpa using hd)
  | commandTaken b ht hp ha hd => exact hi.of_portPoll.of_takeCommand b (by simpa using ht) (by simpa using hd)
  | payloadTaken b ht hp ha hd =>
    exact hi.of_portPoll.of_takePayload b (by simpa using ht) (by simpa using hd) (by simpa using hi.room hp hd)
  | checksumHiTaken b ht hp ha hd => exact hi.of_portPoll.of_takeChecksumHi b (by simpa using ht) (by simpa using hd)
  | frameTaken b t ht hp ha hd h => exact h.inv_of_takeChecksumLo hi.of_portPoll (by simpa using ht) (by simpa using hd)

/-! ### Every step -/

/-- R43, R44: a host write changes no more than `TIMEOUT` and `ARG`. -/
theorem hostStore_frame (n : Byte) (v : Word) (s : State) : ∃ w a, s.hostStore n v = { s with timeout := w, arg := a } := by
  unfold State.hostStore
  split
  · exact ⟨s.timeout, s.arg, rfl⟩
  split
  · exact ⟨v, s.arg, rfl⟩
  split
  · exact ⟨s.timeout, _, rfl⟩
  · exact ⟨s.timeout, s.arg, rfl⟩

theorem Inv.of_hostStore {s : State} (h : Inv s) (n : Byte) (v : Word) : Inv (s.hostStore n v) := by
  obtain ⟨w, a, e⟩ := hostStore_frame n v s
  rw [e]
  exact ⟨h.1, h.2, h.3, h.4, h.5, h.6, h.7, h.8, h.9, h.10, h.11, h.12⟩

theorem Inv.of_hostRead {s : State} (h : Inv s) (n : Byte) : Inv (s.hostRead n) :=
  ⟨h.1, h.2, h.3, h.4, h.5, h.6, h.7, h.8, h.9, h.10, h.11, h.12⟩

theorem Stepped.inv {s t : State} (h : Stepped s t) (hi : Inv s) : Inv t := by
  cases h with
  | block l t hh hb hm => exact hm.inv (hi.withHost l)
  | start l t w hh hb hm => exact hm.inv (hi.withHost l) hb
  | store l n v hh => exact (hi.withHost l).of_hostStore n v
  | read l n hh => exact (hi.withHost l).of_hostRead n
  | reset l hh => exact Inv.of_hardReset hi.params_ok
  | idle l hb => exact hi.withHost l

end Sys2Proof.Machine

open Sys2Proof Sys2Proof.Machine

/-- Settles O44, by cases over the ways of a step (`Stepped`): each keeps the invariant. -/
theorem everyStepKeepsInvariant : Obligations.EveryStepKeepsInvariant :=
  fun _ _ hi h => (step_stepped h).inv hi

/-- Settles O45: reset ends every operation and holds no frame, and the build's codes are distinct. -/
theorem resetMeetsInvariant : Obligations.ResetMeetsInvariant :=
  Inv.of_ended ⟨Config.build_ok, Nat.le_of_lt_succ (Config.freeIdx 0).isLt, .inl rfl, Nat.zero_le _⟩ (State.frameOk_of_invalid rfl)
    rfl rfl rfl

end

section
/-! PROOFS. What a step leaves alone: the parameters, `OUT`, the held frame and the record of port events, and the one way in which each of them
changes. -/

namespace Sys2Proof.Machine

/-! ### What is kept -/

/-- From `s` to `t` the build and `OUT` stay, and a frame that is held in `t` was held in `s`, with the same last checksum byte. -/
structure Kept (s t : State) : Prop where
  params : t.params = s.params
  out : t.out = s.out
  outLen : t.outLen = s.outLen
  frame : t.fvalid = true → s.fvalid = true ∧ t.fCrcLo = s.fCrcLo

/-- What the block does between two port events keeps the record of events too. -/
structure Quiet (s t : State) : Prop extends Kept s t where
  trace : t.trace = s.trace

theorem Kept.refl (s : State) : Kept s s := ⟨rfl, rfl, rfl, fun h => ⟨h, rfl⟩⟩

theorem Kept.trans {s t u : State} (h : Kept s t) (g : Kept t u) : Kept s u where
  params := g.params.trans h.params
  out := g.out.trans h.out
  outLen := g.outLen.trans h.outLen
  frame hv := ⟨(h.frame (g.frame hv).1).1, (g.frame hv).2.trans (h.frame (g.frame hv).1).2⟩

theorem finish_kept (c : ResultCode) (s : State) : Kept s (s.finish c) := ⟨rfl, rfl, rfl, fun h => ⟨h, rfl⟩⟩

theorem beginDecode_kept (s : State) : Kept s (beginDecode s) := ⟨rfl, rfl, rfl, fun h => absurd h Bool.false_ne_true⟩

theorem portPoll_kept (s : State) : Kept s (portPoll s).2 := ⟨rfl, rfl, rfl, fun h => ⟨h, rfl⟩⟩

theorem portWrite_kept (s : State) : Kept s (portWrite s).2 := ⟨rfl, rfl, rfl, fun h => ⟨h, rfl⟩⟩

theorem portReserve_kept (n : Byte) (s : State) : Kept s (portReserve n s).2 := ⟨rfl, rfl, rfl, fun h => ⟨h, rfl⟩⟩

theorem takeLength_kept (b : Byte) (s : State) : Kept s (takeLength b s) := by
  rcases takeLength_cases b s with e | e <;> rw [e]
  · exact .refl s
  · exact ⟨rfl, rfl, rfl, fun h => ⟨h, rfl⟩⟩

theorem takeCommand_kept (b : Byte) (s : State) : Kept s (takeCommand b s) := ⟨rfl, rfl, rfl, fun h => ⟨h, rfl⟩⟩

theorem takePayload_kept (b : Byte) (s : State) : Kept s (takePayload b s) := ⟨rfl, rfl, rfl, fun h => ⟨h, rfl⟩⟩

theorem takeChecksumHi_kept (b : Byte) (s : State) : Kept s (takeChecksumHi b s) := ⟨rfl, rfl, rfl, fun h => ⟨h, rfl⟩⟩

theorem Quiet.of_drawn {s t : State} (h : Quiet s.drawn t) : Quiet s t := ⟨⟨h.params, h.out, h.outLen, h.frame⟩, h.trace⟩

theorem sendReply_quiet (r : ResultCode) (c : Byte) (payload : List (Val 8)) (s : State) : Quiet s (sendReply r c payload s) := by
  obtain ⟨k, b, n, e⟩ := sendReply_frame r c payload s
  rw [e]
  exact ⟨⟨rfl, rfl, rfl, fun h => ⟨h, rfl⟩⟩, rfl⟩

theorem sendRequest_quiet (payload : List (Val 8)) (s : State) : Quiet s (sendRequest payload s) := by
  obtain ⟨k, b, n, e⟩ := sendRequest_frame payload s
  rw [e]
  exact ⟨⟨rfl, rfl, rfl, fun h => ⟨h, rfl⟩⟩, rfl⟩

theorem Started.quiet {s t : State} (h : Started s t) : Quiet s t := by
  cases h with
  | ended op c l code k b n hn => exact ⟨⟨rfl, rfl, rfl, fun h => ⟨h, rfl⟩⟩, rfl⟩
  | decoding op c l hop => exact ⟨⟨rfl, rfl, rfl, fun h => absurd h Bool.false_ne_true⟩, rfl⟩
  | request op c l payload hr hop hl hp =>
    have hq := sendRequest_quiet payload (s.start op c l)
    exact ⟨⟨hq.params, hq.out, hq.outLen, hq.frame⟩, hq.trace⟩

theorem Dispatched.quiet {s t : State} (h : Dispatched s t) : Quiet s t := by
  cases h with
  | read c m => exact ⟨⟨rfl, rfl, rfl, fun h => ⟨h, rfl⟩⟩, rfl⟩
  | write c m => exact ⟨⟨rfl, rfl, rfl, fun h => ⟨h, rfl⟩⟩, rfl⟩
  | unsupported c =>
    have hq := sendReply_quiet .notSupported c [.known s.params.statusNotSupported]
      { s with appStatus := .known s.params.statusNotSupported }
    exact ⟨⟨hq.params, hq.out, hq.outLen, hq.frame⟩, hq.trace⟩

/-- R173, R174: after a decode only an accepted REQUEST_DATA reply writes `OUT`. -/
theorem DecodeFollowed.quiet_or_copied {c : ResultCode} {s t : State} (h : DecodeFollowed c s t) :
    Quiet s t ∨ (c = .ok ∧ s.op = opRequestData ∧ t = (copyOut s.drawn).finish .ok) := by
  cases h with
  | ended code => exact .inl ⟨⟨rfl, rfl, rfl, fun h => ⟨h, rfl⟩⟩, rfl⟩
  | discarded code => exact .inl ⟨⟨rfl, rfl, rfl, fun h => absurd h Bool.false_ne_true⟩, rfl⟩
  | copied hc hop => exact .inr ⟨hc, hop, rfl⟩
  | status => exact .inl ⟨⟨rfl, rfl, rfl, fun h => ⟨h, rfl⟩⟩, rfl⟩
  | dispatched t hc hop ht => exact .inl ht.quiet.of_drawn

theorem DecodeFollowed.params {c : ResultCode} {s t : State} (h : DecodeFollowed c s t) : t.params = s.params := by
  rcases h.quiet_or_copied with hq | ⟨_, _, rfl⟩
  · exact hq.params
  · rfl

theorem DecodeFollowed.trace {c : ResultCode} {s t : State} (h : DecodeFollowed c s t) : t.trace = s.trace := by
  rcases h.quiet_or_copied with hq | ⟨_, _, rfl⟩
  · exact hq.trace
  · rfl

theorem DecodeFollowed.fCrcLo {c : ResultCode} {s t : State} (h : DecodeFollowed c s t) (hv : t.fvalid = true) : t.fCrcLo = s.fCrcLo := by
  rcases h.quiet_or_copied with hq | ⟨_, _, rfl⟩
  · exact (hq.frame hv).2
  · rfl

/-- R122: nothing follows a failed decode but the end of its operation, and it holds no frame. -/
theorem DecodeFollowed.quiet_of_failed {c : ResultCode} {s t : State} (h : DecodeFollowed c (s.decodeEnd c) t) (hc : c ≠ .ok) : Quiet s t := by
  rcases h.quiet_or_copied with hq | ⟨e, _, _⟩
  · exact ⟨⟨hq.params, hq.out, hq.outLen, fun hv => absurd (hq.frame hv).1 (by simp [hc])⟩, hq.trace⟩
  · exact absurd e hc

/-- The last checksum byte of a frame arrives in `s`, and the operation goes on to `t` (R120). -/
structure FrameTaken (s t : State) (b : Byte) : Prop where
  tstate : s.tstate = .poll
  dstate : s.dstate = .readChecksumLo
  answer : nextPoll s = some b
  followed : DecodeFollowed .ok ((takeChecksumLo b (portPoll s).2).decodeEnd .ok) t

theorem appGetStep_kept (c : Byte) (m : PayloadLen) (s : State) : Kept s (appGetStep c m s) := by
  have hport : Kept s (portAppGet c m.val s).2 := ⟨rfl, rfl, rfl, fun h => ⟨h, rfl⟩⟩
  exact hport.trans (sendReply_quiet .ok c (knownCells (appBytes m.val s)) _).toKept

theorem appSetStep_kept (c : Byte) (m : PayloadLen) (s : State) : Kept s (appSetStep c m s) := by
  have hport : Kept s { (portAppSet c (takeCells s.fPay m.val) s).2 with appStatus := .known (appByte s) } :=
    ⟨rfl, rfl, rfl, fun h => ⟨h, rfl⟩⟩
  exact hport.trans (sendReply_quiet .ok c [.known (appByte s)] _).toKept

/-- The block's own step keeps all that, but when a frame's last byte arrives. -/
theorem BlockMoved.kept_or_frameTaken {s t : State} (h : BlockMoved s t) : Kept s t ∨ ∃ b, FrameTaken s t b := by
  cases h with
  | requestWritten ht => exact .inl ((portWrite_kept s).trans ⟨rfl, rfl, rfl, fun h => ⟨h, rfl⟩⟩)
  | requestRefused ht => exact .inl ((portWrite_kept s).trans (finish_kept _ _))
  | reserved ht => exact .inl ((portReserve_kept _ s).trans (beginDecode_kept _))
  | reserveRefused ht => exact .inl ((portReserve_kept _ s).trans (finish_kept _ _))
  | getterAnswered c m ht => exact .inl (appGetStep_kept c m s)
  | setterAnswered c m ht => exact .inl (appSetStep_kept c m s)
  | replyWritten r code ht => exact .inl ((portWrite_kept s).trans (finish_kept _ _))
  | decodeFailed c t ht hc h => exact .inl (h.quiet_of_failed hc).toKept
  | pollFailed ht hp ha => exact .inl ((portPoll_kept s).trans ⟨rfl, rfl, rfl, fun h => ⟨h, rfl⟩⟩)
  | lengthTaken b ht hp ha hd => exact .inl ((portPoll_kept s).trans (takeLength_kept b _))
  | commandTaken b ht hp ha hd => exact .inl ((portPoll_kept s).trans (takeCommand_kept b _))
  | payloadTaken b ht hp ha hd => exact .inl ((portPoll_kept s).trans (takePayload_kept b _))
  | checksumHiTaken b ht hp ha hd => exact .inl ((portPoll_kept s).trans (takeChecksumHi_kept b _))
  | frameTaken b t ht hp ha hd h => exact .inr ⟨b, ht, hd, ha, h⟩

theorem hostStore_quiet (n : Byte) (v : Word) (s : State) : Quiet s (s.hostStore n v) := by
  obtain ⟨w, a, e⟩ := hostStore_frame n v s
  rw [e]
  exact ⟨⟨rfl, rfl, rfl, fun h => ⟨h, rfl⟩⟩, rfl⟩

/-- So does every step of the machine, but for reset. -/
theorem Stepped.kept_or_frameTaken {s t : State} (h : Stepped s t) :
    Kept s t ∨ (∃ l, s.host = .reset :: l ∧ t = ({ s with host := l } : State).hardReset) ∨
      ∃ l b, s.busy = true ∧ FrameTaken { s with host := l } t b := by
  cases h with
  | block l t hh hb hm =>
    rcases hm.kept_or_frameTaken with hk | ⟨b, hf⟩
    · exact .inl ⟨hk.params, hk.out, hk.outLen, hk.frame⟩
    · exact .inr (.inr ⟨l, b, hb, hf⟩)
  | start l t w hh hb hm =>
    have hk := hm.quiet
    exact .inl ⟨hk.params, hk.out, hk.outLen, hk.frame⟩
  | store l n v hh =>
    have hk := hostStore_quiet n v { s with host := l }
    exact .inl ⟨hk.params, hk.out, hk.outLen, hk.frame⟩
  | read l n hh => exact .inl ⟨rfl, rfl, rfl, fun h => ⟨h, rfl⟩⟩
  | reset l hh => exact .inr (.inl ⟨l, hh, rfl⟩)
  | idle l hb => exact .inl ⟨rfl, rfl, rfl, fun h => ⟨h, rfl⟩⟩

@[simp] theorem portPoll_params (s : State) : (portPoll s).2.params = s.params := rfl
@[simp] theorem portPoll_out (s : State) : (portPoll s).2.out = s.out := rfl
@[simp] theorem portPoll_outLen (s : State) : (portPoll s).2.outLen = s.outLen := rfl
@[simp] theorem portPoll_op (s : State) : (portPoll s).2.op = s.op := rfl
@[simp] theorem portPoll_reqLen (s : State) : (portPoll s).2.reqLen = s.reqLen := rfl
@[simp] theorem portPoll_trace (s : State) : (portPoll s).2.trace = .poll (nextPoll s) :: s.trace := rfl

theorem FrameTaken.params {s t : State} {b : Byte} (h : FrameTaken s t b) : t.params = s.params := by
  simpa [takeChecksumLo] using h.followed.params

theorem FrameTaken.fCrcLo {s t : State} {b : Byte} (h : FrameTaken s t b) (hv : t.fvalid = true) : t.fCrcLo = .known b := by
  simpa [takeChecksumLo] using h.followed.fCrcLo hv

theorem FrameTaken.trace {s t : State} {b : Byte} (h : FrameTaken s t b) : t.trace = .poll (some b) :: s.trace := by
  simpa [takeChecksumLo, h.answer] using h.followed.trace

/-- R31, R173: the step in which `OUT` is written ends a REQUEST_DATA with OK. -/
theorem FrameTaken.kept_or_copied {s t : State} {b : Byte} (h : FrameTaken s t b) :
    (t.out = s.out ∧ t.outLen = s.outLen) ∨
      (s.op = opRequestData ∧ t.busy = false ∧ t.done = true ∧ t.result = .ok ∧ t.outLen = s.reqLen) := by
  rcases h.followed.quiet_or_copied with hq | ⟨_, hop, rfl⟩
  · exact .inl (by simpa [takeChecksumLo] using And.intro hq.out hq.outLen)
  · exact .inr (by simpa [takeChecksumLo, copyOut] using hop)

/-! ### The events of a step -/

/-- The events that the step from `s` to `t` has added to the record: none, one, or a failed `POLL` with its `NOBYTE`, each one that the role
admits (R46, R183, R202). -/
def AdmittedEvents (r : Role) (s t : State) : Prop :=
  ∃ new : List PortEvent, t.trace = new ++ s.trace ∧
    (new = [] ∨ new = [.noByte, .poll none] ∨ ∃ e, new = [e] ∧ e ≠ .noByte ∧ e ≠ .poll none) ∧ ∀ e ∈ new, e.admitted r = true

theorem AdmittedEvents.of_silent {r : Role} {s t : State} (h : t.trace = s.trace) : AdmittedEvents r s t :=
  ⟨[], h, .inl rfl, by simp⟩

theorem AdmittedEvents.of_one {r : Role} {s t : State} (e : PortEvent) (h : t.trace = e :: s.trace) (hn : e ≠ .noByte) (hp : e ≠ .poll none)
    (ha : e.admitted r = true) : AdmittedEvents r s t :=
  ⟨[e], h, .inr (.inr ⟨e, rfl, hn, hp⟩), by simpa using ha⟩

theorem AdmittedEvents.of_failedPoll {r : Role} {s t : State} (h : t.trace = .noByte :: .poll none :: s.trace) : AdmittedEvents r s t :=
  ⟨[.noByte, .poll none], h, .inr (.inl rfl), by simp [PortEvent.admitted]⟩

theorem AdmittedEvents.of_write {r : Role} {s t : State} (h : t.trace = (portWrite s).2.trace) : AdmittedEvents r s t :=
  .of_one _ h (by simp) (by simp) rfl

theorem AdmittedEvents.of_reserve {r : Role} {s t : State} {n : Byte} (h : t.trace = (portReserve n s).2.trace) (hr : r = .master) :
    AdmittedEvents r s t :=
  .of_one _ h (by simp) (by simp) (hr ▸ rfl)

/-- A `POLL` that was answered with a byte. -/
theorem AdmittedEvents.of_byte {r : Role} {s t : State} {b : Byte} (ha : nextPoll s = some b) (h : t.trace = (portPoll s).2.trace) :
    AdmittedEvents r s t :=
  .of_one (.poll (some b)) (by rw [h, ← ha]; rfl) (by simp) (by simp) rfl

/-- R183, R202: the block's own step makes only events its role admits, since the operation it waits for is one its role admits. -/
theorem BlockMoved.admittedEvents {s t : State} (h : BlockMoved s t) (hi : Inv s) : AdmittedEvents s.params.role s t := by
  have master (ht : s.tstate = .reserve) : s.params.role = .master := by
    have hpos := hi.position
    simp only [State.positionFits, ht] at hpos
    exact hpos.1
  cases h with
  | requestWritten ht => exact .of_write rfl
  | requestRefused ht => exact .of_write rfl
  | reserved ht => exact .of_reserve rfl (master ht)
  | reserveRefused ht => exact .of_reserve rfl (master ht)
  | getterAnswered c m ht =>
    refine .of_one (.appGet c m.val (appBytes m.val s)) ?_ (by simp) (by simp) (by rw [(hi.serving_of_appGet ht).role]; rfl)
    exact (sendReply_quiet .ok c (knownCells (appBytes m.val s)) (portAppGet c m.val s).2).trace
  | setterAnswered c m ht =>
    refine .of_one (.appSet c (valuesFrom s.draws 0 (takeCells s.fPay m.val)) (appByte s)) ?_ (by simp) (by simp)
      (by rw [(hi.serving_of_appSet ht).role]; rfl)
    exact (sendReply_quiet .ok c [.known (appByte s)]
      { (portAppSet c (takeCells s.fPay m.val) s).2 with appStatus := .known (appByte s) }).trace
  | replyWritten r code ht => exact .of_write rfl
  | decodeFailed c t ht hc h => exact .of_silent (h.quiet_of_failed hc).trace
  | pollFailed ht hp ha => exact .of_failedPoll (by rw [← ha]; rfl)
  | lengthTaken b ht hp ha hd =>
    rcases takeLength_cases b (portPoll s).2 with e | e <;> rw [e] <;> exact .of_byte ha rfl
  | commandTaken b ht hp ha hd => exact .of_byte ha rfl
  | payloadTaken b ht hp ha hd => exact .of_byte ha rfl
  | checksumHiTaken b ht hp ha hd => exact .of_byte ha rfl
  | frameTaken b t ht hp ha hd h => exact .of_byte ha h.trace

/-- The host's acts make no port event (R65, R260); only the block's own step does. -/
theorem Stepped.admittedEvents {s t : State} (h : Stepped s t) (hi : Inv s) : AdmittedEvents s.params.role s t := by
  cases h with
  | block l t hh hb hm => exact hm.admittedEvents (hi.withHost l)
  | start l t w hh hb hm => exact .of_silent hm.quiet.trace
  | store l n v hh => exact .of_silent (hostStore_quiet n v { s with host := l }).trace
  | read l n hh => exact .of_silent rfl
  | reset l hh => exact .of_silent rfl
  | idle l hb => exact .of_silent rfl

end Sys2Proof.Machine

open Sys2Proof Sys2Proof.Machine

/-- Settles O47: no way of a step writes the parameters. -/
theorem parametersNeverChange : Obligations.ParametersNeverChange := by
  intro s t h
  rcases (step_stepped h).kept_or_frameTaken with hk | ⟨l, _, rfl⟩ | ⟨l, b, _, hf⟩
  · exact hk.params
  · rfl
  · exact hf.params

/-- Settles O48, by cases over the ways of a step and the position that the invariant gives the role. -/
theorem oneAdmittedEventPerStep : Obligations.OneAdmittedEventPerStep :=
  fun _ _ hi h => (step_stepped h).admittedEvents hi

/-- Settles O50: outside reset, only the arrival of a frame's last byte can lead to `copyOut`. -/
theorem outChangesOnlyOnOkRequestData : Obligations.OutChangesOnlyOnOkRequestData := by
  intro s t h hne hreset
  rcases (step_stepped h).kept_or_frameTaken with hk | ⟨l, hh, _⟩ | ⟨l, b, hb, hf⟩
  · exact absurd hne (by simp [hk.out, hk.outLen])
  · exact absurd hh (hreset l)
  · rcases hf.kept_or_copied with ⟨ho, hl⟩ | ⟨hop, hrest⟩
    · exact absurd hne (by simp [ho, hl])
    · exact ⟨hb, hop, hf.dstate, hrest⟩

/-- Settles O51: every other step that ends with a frame held began with it. -/
theorem frameBecomesValidOnlyAtDecodeEnd : Obligations.FrameBecomesValidOnlyAtDecodeEnd := by
  intro s t h hs ht
  rcases (step_stepped h).kept_or_frameTaken with hk | ⟨l, _, rfl⟩ | ⟨l, b, hb, hf⟩
  · exact absurd (hk.frame ht).1 (by simp [hs])
  · exact absurd ht Bool.false_ne_true
  · exact ⟨hb, hf.tstate, hf.dstate, b, s.trace, hf.fCrcLo ht, hf.trace⟩

end

section
/-! PROOFS. The turns of the host and of the block, the answers of the outside world, and the host's register space. -/

namespace Sys2Proof.Machine

/-! ### Turns of an idle block, host writes and reset -/

/-- R249. -/
theorem step_of_idle_noHost {s : State} (hh : s.host = []) (hb : s.busy = false) : step s = .next s := by
  simp [step, nextTurn, hh, blockTurn, hb]

/-- R249. -/
theorem step_of_idle_block {s : State} {rest : List HostAct} (hh : s.host = .block :: rest) (hb : s.busy = false) :
    step s = .next { s with host := rest } := by
  simp [step, nextTurn, hh, hostTurn, blockTurn, hb]

/-- R43, R44: a host write to a register other than `CTRL`. -/
theorem step_of_store {s : State} {n : Byte} {v : Word} {rest : List HostAct} (hh : s.host = .wr n v :: rest) (hn : n ≠ 0x00#8) :
    step s = .next (({ s with host := rest } : State).hostStore n v) := by
  have h0 : n.toNat ≠ 0 := BitVec.toNat_ne_iff_ne.2 hn
  simp only [step, nextTurn, hh, hostTurn, hostWrite, if_neg h0]

/-- R22, R43: while an operation runs a host write is lost, one to `CTRL` too. -/
theorem step_of_write_busy {s : State} {n : Byte} {v : Word} {rest : List HostAct} (hh : s.host = .wr n v :: rest) (hb : s.busy = true) :
    step s = .next { s with host := rest } := by
  by_cases hn : n = 0x00#8
  · subst hn; simp [step, nextTurn, hh, hostTurn, hostWrite, hb]
  · rw [step_of_store hh hn]; simp [State.hostStore, hb]

theorem hostStore_timeout {s : State} (hb : s.busy = false) (v : Word) : s.hostStore 0x02#8 v = { s with timeout := v } := by
  simp [State.hostStore, hb]

theorem hostStore_arg {s : State} {n : Byte} (hb : s.busy = false) (h1 : 0x20 ≤ n.toNat) (h2 : n.toNat ≤ 0x39) (v : Word) :
    s.hostStore n v = { s with arg := writeCell s.arg (n.toNat - 0x20) (.known (v.setWidth 8)) } := by
  have hr : 0x20 ≤ n.toNat ∧ n.toNat < 0x3A := by omega
  simp only [State.hostStore, hb, if_neg Bool.false_ne_true, if_neg (by omega : n.toNat ≠ 2), if_pos hr]

theorem hostStore_other {s : State} {n : Byte} (h2 : n ≠ 0x02#8) (hr : ¬ (0x20 ≤ n.toNat ∧ n.toNat ≤ 0x39)) (v : Word) :
    s.hostStore n v = s := by
  have h2' : n.toNat ≠ 2 := BitVec.toNat_ne_iff_ne.2 h2
  have hr' : ¬ (0x20 ≤ n.toNat ∧ n.toNat < 0x3A) := by omega
  simp only [State.hostStore, if_neg h2', if_neg hr', ite_self]

/-- R260. -/
theorem step_of_reset {s : State} {rest : List HostAct} (hh : s.host = .reset :: rest) :
    step s = .next ({ s with host := rest } : State).hardReset := by
  simp [step, nextTurn, hh, hostTurn]

/-- R114: a `DecodeStep` with no tick left. -/
theorem decodeStep_noTicks {s : State} (hd : s.dstate ≠ .idle) (hr : ¬ (s.dstate = .readPayload ∧ s.idx = payloadCap)) (hk : s.ticks = 0#32) :
    decodeStep s = afterDecode .timeout (s.decodeEnd .timeout) := by
  rw [decodeStep, if_neg hd, if_neg hr, if_pos hk]

/-! ### Answers that are not planned (R45) -/

/-- A `POLL` whose answer is not planned is one whose answer was planned to be just that. -/
theorem portPoll_unplanned {s : State} (h : s.rx = []) : portPoll s = portPoll { s with rx := [nextPoll s] } := by
  simp [portPoll, nextPoll, h, State.drawn]

theorem portWrite_unplanned {s : State} (h : s.acks = []) : portWrite s = portWrite { s with acks := [nextAck s] } := by
  simp [portWrite, nextAck, h, State.drawn, State.txFrame]

theorem portReserve_unplanned {s : State} (n : Byte) (h : s.acks = []) : portReserve n s = portReserve n { s with acks := [nextAck s] } := by
  simp [portReserve, nextAck, h, State.drawn]

theorem portAppSet_unplanned {s : State} (c : Byte) (args : List (Val 8)) (h : s.app = []) :
    portAppSet c args s = portAppSet c args { s with app := [appByte s] } := by
  simp [portAppSet, appByte, h, State.drawn]

/-- The bytes of a getter's answer of length `m` that the application has not planned. -/
def unplannedBytes (m : Nat) (s : State) : List Byte := (appBytes m s).drop s.app.length

/-- A getter's answer that is planned in part is what is planned and the rest. -/
theorem appBytes_eq_append {s : State} {m : Nat} (h : s.app.length < m) : appBytes m s = s.app ++ unplannedBytes m s := by
  simp [unplannedBytes, appBytes, List.take_of_length_le h.le, valuesFrom_append]

theorem unplannedBytes_length {s : State} {m : Nat} (h : s.app.length < m) : s.app.length + (unplannedBytes m s).length = m := by
  simp only [unplannedBytes, List.length_drop, appBytes_length]
  omega

theorem portAppGet_unplanned {s : State} (c : Byte) {m : Nat} (h : s.app.length < m) :
    portAppGet c m s = portAppGet c m { s with app := s.app ++ unplannedBytes m s } := by
  have hl : (s.app ++ unplannedBytes m s).length = m := by rw [List.length_append, unplannedBytes_length h]
  have he : appBytes m { s with app := s.app ++ unplannedBytes m s } = appBytes m s := by
    rw [appBytes_of_le (show m ≤ (s.app ++ unplannedBytes m s).length from hl.ge), appBytes_eq_append h]
    exact List.take_of_length_le hl.le
  have hd : s.app.drop m = (s.app ++ unplannedBytes m s).drop m := by
    rw [List.drop_of_length_le h.le, List.drop_of_length_le hl.le]
  simp only [portAppGet, he, hd, State.drawn]

theorem blockStep_poll_unplanned {s : State} (ht : s.tstate = .poll) (hp : Polls s) (h : s.rx = []) :
    blockStep s = blockStep { s with rx := [nextPoll s] } := by
  rw [blockStep_poll ht, blockStep_poll (s := { s with rx := [nextPoll s] }) ht,
    decodeStep_polls hp, decodeStep_polls (s := { s with rx := [nextPoll s] }) hp, pollStep, pollStep, ← portPoll_unplanned h]

theorem blockStep_ack_unplanned {s : State} (ht : s.tstate = .writeRequest ∨ s.tstate = .reserve ∨ ∃ r, s.tstate = .writeReply r)
    (h : s.acks = []) : blockStep s = blockStep { s with acks := [nextAck s] } := by
  rcases ht with ht | ht | ⟨r, ht⟩
  · rw [blockStep_writeRequest ht, blockStep_writeRequest (s := { s with acks := [nextAck s] }) ht, writeRequestStep, writeRequestStep,
      ← portWrite_unplanned h]
  · have hc : ({ s with acks := [nextAck s] } : State).reserveCount = s.reserveCount := rfl
    rw [blockStep_reserve ht, blockStep_reserve (s := { s with acks := [nextAck s] }) ht, reserveStep, reserveStep, hc, ← portReserve_unplanned _ h]
  · rw [blockStep_writeReply ht, blockStep_writeReply (s := { s with acks := [nextAck s] }) ht, writeReplyStep, writeReplyStep,
      ← portWrite_unplanned h]

theorem blockStep_appGet_unplanned {s : State} {c : Byte} {m : PayloadLen} (ht : s.tstate = .appGet c m) (h : s.app.length < m.val) :
    blockStep s = blockStep { s with app := s.app ++ unplannedBytes m.val s } := by
  rw [blockStep_appGet ht, blockStep_appGet (s := { s with app := s.app ++ unplannedBytes m.val s }) ht, appGetStep, appGetStep,
    ← portAppGet_unplanned c h]

theorem blockStep_appSet_unplanned {s : State} {c : Byte} {m : PayloadLen} (ht : s.tstate = .appSet c m) (h : s.app = []) :
    blockStep s = blockStep { s with app := [appByte s] } := by
  rw [blockStep_appSet ht, blockStep_appSet (s := { s with app := [appByte s] }) ht, appSetStep, appSetStep, ← portAppSet_unplanned c _ h]

/-! ### Reads -/

@[simp] theorem hostReadValue_status (s : State) : s.hostReadValue 0x01#8 = s.statusWord := rfl

@[simp] theorem hostReadValue_config (s : State) : s.hostReadValue 0x03#8 = s.configWord := rfl

theorem hostReadValue_busy {s : State} {n : Byte} (hb : s.busy = true) (h1 : n ≠ 0x01#8) (h3 : n ≠ 0x03#8) :
    s.hostReadValue n = s.busyRead n.toNat := by
  have h1' : n.toNat ≠ 1 := BitVec.toNat_ne_iff_ne.2 h1
  have h3' : n.toNat ≠ 3 := BitVec.toNat_ne_iff_ne.2 h3
  simp only [State.hostReadValue, if_neg h1', if_neg h3', if_pos hb]

theorem hostReadValue_idle {s : State} {n : Byte} (hb : s.busy = false) (h1 : n.toNat ≠ 1) (h3 : n.toNat ≠ 3) :
    s.hostReadValue n = s.idleRead n.toNat := by
  simp only [State.hostReadValue, if_neg h1, if_neg h3, hb, if_neg Bool.false_ne_true]

/-- The fields of `STATUS` (R23), read back from its word. -/
theorem statusWord_fields (s : State) :
    s.statusWord.extractLsb' 0 1 = BitVec.ofBool s.busy ∧ s.statusWord.extractLsb' 1 1 = BitVec.ofBool s.done ∧
      s.statusWord.extractLsb' 2 1 = BitVec.ofBool s.fvalid ∧ s.statusWord.extractLsb' 3 1 = roleBit s.params.role ∧
      s.statusWord.extractLsb' 4 4 = s.result.code ∧ s.statusWord.extractLsb' 8 24 = 0#24 := by
  unfold State.statusWord
  refine ⟨BitVec.extractLsb'_append_eq_right, ?_, ?_, ?_, ?_, ?_⟩
  · exact (BitVec.extractLsb'_append_eq_of_le (by decide)).trans BitVec.extractLsb'_append_eq_right
  · iterate 2 refine (BitVec.extractLsb'_append_eq_of_le (by decide)).trans ?_
    exact BitVec.extractLsb'_append_eq_right
  · iterate 3 refine (BitVec.extractLsb'_append_eq_of_le (by decide)).trans ?_
    exact BitVec.extractLsb'_append_eq_right
  · iterate 4 refine (BitVec.extractLsb'_append_eq_of_le (by decide)).trans ?_
    exact BitVec.extractLsb'_append_eq_right
  · iterate 4 refine (BitVec.extractLsb'_append_eq_of_le (by decide)).trans ?_
    exact BitVec.extractLsb'_append_eq_left

/-- The fields of `CONFIG` (R34), read back from its word. -/
theorem configWord_fields (s : State) :
    s.configWord.extractLsb' 0 8 = 0x1A#8 ∧ s.configWord.extractLsb' 8 8 = 0x40#8 ∧ s.configWord.extractLsb' 16 1 = roleBit s.params.role ∧
      s.configWord.extractLsb' 17 15 = 0#15 := by
  unfold State.configWord
  cases s.params.role <;> decide

theorem roleBit_eq_one (r : Role) : roleBit r = 1#1 ↔ r = .slave := by cases r <;> decide

/-- R21: a number that the map does not list reads 0, whether or not an operation runs. -/
theorem hostReadValue_unmapped (s : State) {n : Byte} (h6 : 6 ≤ n.toNat) (ha : ¬ (0x20 ≤ n.toNat ∧ n.toNat ≤ 0x39))
    (hp : ¬ (0x40 ≤ n.toNat ∧ n.toNat ≤ 0x59)) (ho : ¬ (0x60 ≤ n.toNat ∧ n.toNat ≤ 0x79))
    (ht : ¬ (0x80 ≤ n.toNat ∧ n.toNat ≤ 0xBF)) :
    s.hostReadValue n = 0#32 := by
  have hbyte : isByteReg n.toNat = false := by
    simp only [isByteReg, ← Bool.decide_and, ← Bool.decide_or, decide_eq_false_iff_not]
    omega
  have hbusy : s.busyRead n.toNat = 0#32 := by
    simp only [State.busyRead, if_neg (by omega : ¬ (n.toNat = 0 ∨ n.toNat = 2 ∨ n.toNat = 4 ∨ n.toNat = 5)), hbyte,
      if_neg Bool.false_ne_true]
  have hidle : s.idleRead n.toNat = 0#32 := by
    unfold State.idleRead
    iterate 7 rw [if_neg (by omega)]
  simp only [State.hostReadValue, if_neg (by omega : n.toNat ≠ 1), if_neg (by omega : n.toNat ≠ 3), hbusy, hidle, ite_self]

/-- The register number of an array's `i`-th element. -/
theorem toNat_regNumber {base i : Nat} (h : base + i < 256) : (BitVec.ofNat 8 (base + i)).toNat = base + i := by
  rw [BitVec.toNat_ofNat, Nat.mod_eq_of_lt h]

theorem idleRead_arg (s : State) {i : Nat} (h : i < 26) : s.idleRead (0x20 + i) = byteWord ((readCell s.arg i).value s.draws 0) := by
  unfold State.idleRead
  iterate 3 rw [if_neg (by omega)]
  rw [if_pos (by omega), Nat.add_sub_cancel_left]

theorem idleRead_fPay (s : State) {i : Nat} (h : i < 26) :
    s.idleRead (0x40 + i) = byteWord ((s.frameView (readCell s.fPay i)).value s.draws 0) := by
  unfold State.idleRead
  iterate 4 rw [if_neg (by omega)]
  rw [if_pos (by omega), Nat.add_sub_cancel_left]

theorem idleRead_out (s : State) {i : Nat} (h : i < 26) : s.idleRead (0x60 + i) = byteWord ((readCell s.out i).value s.draws 0) := by
  unfold State.idleRead
  iterate 5 rw [if_neg (by omega)]
  rw [if_pos (by omega), Nat.add_sub_cancel_left]

theorem idleRead_txb (s : State) {i : Nat} (h : i < 64) : s.idleRead (0x80 + i) = byteWord ((readCell s.txb i).value s.draws 0) := by
  unfold State.idleRead
  iterate 6 rw [if_neg (by omega)]
  rw [if_pos (by omega), Nat.add_sub_cancel_left]

/-- An idle read of an array's element that holds a byte. -/
theorem hostReadValue_element {s : State} {base i : Nat} {v : Val 8} {b : Byte} (hb : s.busy = false) (hlo : 4 ≤ base) (hhi : base + i < 256)
    (hr : s.idleRead (base + i) = byteWord (v.value s.draws 0)) (hv : v = .known b) :
    s.hostReadValue (BitVec.ofNat 8 (base + i)) = b.setWidth 32 := by
  have hn := toNat_regNumber hhi
  rw [hostReadValue_idle hb (by omega) (by omega), hn, hr, hv, Val.value_known, byteWord]

/-- R42: a busy read is a draw, of which the block's registers tell nothing. -/
theorem busyRead_congr {s s' : State} (h : s.draws = s'.draws) (n : Nat) : s.busyRead n = s'.busyRead n := by
  simp only [State.busyRead, h]

/-- R30: so is a read of a frame register while no frame is held. -/
theorem frameHdr_congr {s s' : State} (h : s.draws = s'.draws) (hv : s.fvalid = false) (hv' : s'.fvalid = false) :
    s.frameHdr = s'.frameHdr := by
  simp only [State.frameHdr, State.frameView_of_not_fvalid hv, State.frameView_of_not_fvalid hv', h]

theorem idleRead_fPay_congr {s s' : State} (h : s.draws = s'.draws) (hv : s.fvalid = false) (hv' : s'.fvalid = false) {i : Nat} (hi : i < 26) :
    s.idleRead (0x40 + i) = s'.idleRead (0x40 + i) := by
  rw [idleRead_fPay s hi, idleRead_fPay s' hi, State.frameView_of_not_fvalid hv, State.frameView_of_not_fvalid hv', h]

end Sys2Proof.Machine

open Sys2Proof Sys2Proof.Machine

/-- Settles O6: each of the four turns is one of the step's equations. -/
theorem turnsOfHostAndBlock : Obligations.TurnsOfHostAndBlock := by
  intro s rest
  refine ⟨fun hb => ?_, fun hb => ?_, fun hb => ?_, fun hb => ?_⟩
  · exact step_of_idle_host (s := { s with host := [] }) rfl hb
  · exact step_of_block (s := { s with host := .block :: rest }) rfl hb
  · exact step_of_idle_noHost (s := { s with host := [] }) rfl hb
  · exact step_of_idle_block (s := { s with host := .block :: rest }) rfl hb

/-- Settles O7, by the step's equation for a `CTRL` write. -/
theorem stepRunsCtrlWrite : Obligations.StepRunsCtrlWrite :=
  fun _ _ _ hb hh => step_of_ctrlWrite hh hb

/-- Settles O10: at each position, planning the answer that is drawn makes the same port event. -/
theorem unplannedAnswerIsSomeAnswer : Obligations.UnplannedAnswerIsSomeAnswer := by
  intro s
  refine ⟨fun hr ht hd ho hk => ?_, fun ha ht => ?_, fun c m ht hm => ?_, fun c m ht ha => ?_⟩
  · exact ⟨nextPoll s, blockStep_poll_unplanned ht ⟨hd, ho, hk⟩ hr⟩
  · exact ⟨nextAck s, blockStep_ack_unplanned ht ha⟩
  · exact ⟨unplannedBytes m.val s, unplannedBytes_length hm, blockStep_appGet_unplanned ht hm⟩
  · exact ⟨appByte s, blockStep_appSet_unplanned ht ha⟩

/-- Settles O11, by the effect of a store on each range of register numbers. -/
theorem hostWriteEffects : Obligations.HostWriteEffects := by
  intro s n v rest hh
  refine ⟨step_of_write_busy hh, fun hb hn => ?_, fun b hb h1 h2 hv => ?_, fun _ h0 h2 hr => ?_⟩
  · subst hn
    rw [step_of_store hh (by decide), hostStore_timeout (s := { s with host := rest }) hb]
  · have hn0 : n ≠ 0x00#8 := by rintro rfl; exact absurd h1 (by decide)
    have hv8 : v.setWidth 8 = b := by subst hv; simp
    refine ⟨writeCell s.arg (n.toNat - 0x20) (.known b), ?_, ?_, fun i hi => ?_⟩
    · rw [step_of_store hh hn0, hostStore_arg (s := { s with host := rest }) hb h1 h2, hv8]
    · rw [readCell_writeCell, if_pos ⟨rfl, by omega⟩]
    · rw [readCell_writeCell, if_neg fun h => hi h.1.symm]
  · rw [step_of_store hh h0, hostStore_other h2 hr]

/-- Settles O13, by the fields of the two words and the ranges of the register map. -/
theorem readsThatNeverDependOnBusy : Obligations.ReadsThatNeverDependOnBusy := by
  intro s
  simp only [hostReadValue_status, hostReadValue_config]
  obtain ⟨hbusy, hdone, hfvalid, hrole, hresult, hzero⟩ := statusWord_fields s
  obtain ⟨hcap, htx, hcrole, hczero⟩ := configWord_fields s
  refine ⟨hbusy, hdone, hfvalid, ?_, hresult, fun p hp hr => ?_, hzero, hcap, htx, hcrole.trans hrole.symm, hczero,
    fun n => hostReadValue_unmapped s⟩
  · rw [hrole, roleBit_eq_one]
  · have hcode : ∀ q ∈ [(ResultCode.ok, 0#4), (.timeout, 1#4), (.overflow, 2#4), (.malformed, 3#4), (.notSupported, 4#4),
        (.invalidAnswer, 5#4), (.txFailed, 6#4), (.requestFailed, 7#4), (.encodeTooLong, 8#4), (.argError, 9#4), (.roleError, 10#4),
        (.illegalOp, 11#4)], q.1.code = q.2 := by decide
    rw [hresult, hr, hcode p hp]

/-- Settles O14, by the idle read of each range of the register map. -/
theorem idleReadsGiveRegisters : Obligations.IdleReadsGiveRegisters := by
  intro s hb
  refine ⟨hostReadValue_idle hb (by decide) (by decide), hostReadValue_idle hb (by decide) (by decide), fun l c hi lo hv hl hc hhi hlo => ?_,
    fun a ha => ?_, fun i b hi h => ?_, fun i b hi hv h => ?_, fun i b hi h => ?_, fun i b hi h => ?_⟩
  · have e : s.hostReadValue 0x04#8 = s.frameHdr := hostReadValue_idle hb (by decide) (by decide)
    rw [e, State.frameHdr]
    simp only [State.frameView_of_fvalid hv, hl, hc, hhi, hlo, Val.value_known]
  · have e : s.hostReadValue 0x05#8 = s.resultAux := hostReadValue_idle hb (by decide) (by decide)
    rw [e, State.resultAux, ha, Val.value_known]
  · exact hostReadValue_element hb (by decide) (by omega) (idleRead_arg s hi) h
  · exact hostReadValue_element hb (by decide) (by omega) (idleRead_fPay s hi) (by rw [State.frameView_of_fvalid hv, h])
  · exact hostReadValue_element hb (by decide) (by omega) (idleRead_out s hi) h
  · exact hostReadValue_element hb (by decide) (by omega) (idleRead_txb s hi) h

/-- Settles O15: such reads look at nothing of the state but the draw to come. -/
theorem hiddenRegistersTellNothing : Obligations.HiddenRegistersTellNothing := by
  intro s s' n hd
  refine ⟨fun hb hb' h1 h3 => ?_, fun hb hb' hv hv' hn => ?_⟩
  · rw [hostReadValue_busy hb h1 h3, hostReadValue_busy hb' h1 h3, busyRead_congr hd]
  rcases hn with rfl | ⟨h1, h2⟩
  · have e (u : State) (hu : u.busy = false) : u.hostReadValue 0x04#8 = u.frameHdr := hostReadValue_idle hu (by decide) (by decide)
    rw [e s hb, e s' hb', frameHdr_congr hd hv hv']
  · have hr := idleRead_fPay_congr hd hv hv' (i := n.toNat - 0x40) (by omega)
    rw [Nat.add_sub_cancel' h1] at hr
    rw [hostReadValue_idle hb (by omega) (by omega), hostReadValue_idle hb' (by omega) (by omega), hr]

/-- Settles O16, element by element of the reset state. -/
theorem resetGivesResetValues : Obligations.ResetGivesResetValues := by
  intro s rest hh
  have h26 : ∀ i, readCell (Vector.replicate 26 (.unspec : Val 8)) i = .unspec := readCell_replicate 26
  have h64 : ∀ i, readCell (Vector.replicate 64 (.unspec : Val 8)) i = .unspec := readCell_replicate 64
  exact ⟨_, step_of_reset hh, rfl, rfl, rfl, rfl, rfl, rfl, rfl, h26, rfl, rfl, rfl, rfl, h26, h26, rfl, rfl, h64, rfl, rfl, rfl, rfl, rfl, rfl,
    rfl, rfl⟩

/-- Settles O17: after reset `TIMEOUT` is 0, so the decode has no tick for a `POLL`. -/
theorem resetStateIsIdle : Obligations.ResetStateIsIdle := by
  refine ⟨rfl, rfl, rfl, rfl, rfl, rfl, rfl, rfl, rfl, beginDecode (State.reset.start opDecode 0 0), ?_⟩
  have hstep : blockStep (beginDecode (State.reset.start opDecode 0 0)) =
      .next (((beginDecode (State.reset.start opDecode 0 0)).decodeEnd .timeout).finish .timeout) := by
    rw [blockStep_poll rfl, decodeStep_noTicks (by simp [beginDecode]) (by simp [beginDecode]) rfl, afterDecode_decode rfl]
  exact ⟨_, rfl, hstep, rfl, rfl⟩

end

section
/-! PROOFS. What a host read does (R23, R65): its value does not depend on the host's coming acts, and its step changes only the host's record. -/

namespace Sys2Proof.Machine

/-- What a register reads as does not depend on the acts the host has still to come. -/
@[simp] theorem hostReadValue_withHost (s : State) (h : List HostAct) (n : Byte) :
    ({ s with host := h } : State).hostReadValue n = s.hostReadValue n := rfl

/-- R65: the host's next act is a read. -/
theorem step_of_read {s : State} {n : Byte} {rest : List HostAct} (hh : s.host = .rd n :: rest) :
    step s = .next (({ s with host := rest } : State).hostRead n) := by
  simp only [step, nextTurn, hh, hostTurn]

end Sys2Proof.Machine

open Sys2Proof Sys2Proof.Machine

/-- Settles O12, by the step of a read; its value is that of the state before the act was taken. -/
theorem hostReadsHaveNoEffect : Obligations.HostReadsHaveNoEffect := by
  intro s n rest hh
  rw [step_of_read hh, State.hostRead, hostReadValue_withHost, State.drawn]

end

section
/-! PROOFS. The encoding (R90 to R99, R210 to R222): the decoders and the encoder undo each other, on the instructions that are well formed and on
every word up to its reserved bits. -/

namespace Sys2Proof

/-! ### `CTRL` words -/

/-- R90, R91, R98: a host operation is read back from its word, whatever its operands. -/
theorem decodeCtrl_of_encode {p : Params} {i : Instr} {w : Word} (h : encode p i = .ctrl w) : decodeCtrl w = i := by
  cases i
  case illegalOp0 | decode | validate | encode | requestData | sendAction | handle | illegalOp7 =>
    cases h
    simp [decodeCtrl]
  all_goals cases h

/-- A word with the operation code `op` has the fields of its canonical word (R90). -/
theorem ctrlWord_of_ctrlOp {w : Word} {op : BitVec 3} (h : ctrlOp w = op) : ctrlWord op (ctrlCmd w) (ctrlLen w) = w &&& 0x00FFFF07#32 :=
  h ▸ ctrlWord_of_fields w

/-- R91, R98: an operation code that is none of 1 to 7 is 0. -/
theorem opCode_eq_zero {op : BitVec 3} (h1 : op ≠ 1#3) (h2 : op ≠ 2#3) (h3 : op ≠ 3#3) (h4 : op ≠ 4#3) (h5 : op ≠ 5#3) (h6 : op ≠ 6#3)
    (h7 : op ≠ 7#3) : op = 0#3 := by
  bv_omega

/-- R90, R99: the word of the operation that a word starts is that word with its reserved bits 0. -/
theorem encode_decodeCtrl (p : Params) (w : Word) : encode p (decodeCtrl w) = .ctrl (w &&& 0x00FFFF07#32) := by
  unfold decodeCtrl
  split_ifs with h1 h2 h3 h4 h5 h6 h7
  · exact congrArg _ (ctrlWord_of_ctrlOp h1)
  · exact congrArg _ (ctrlWord_of_ctrlOp h2)
  · exact congrArg _ (ctrlWord_of_ctrlOp h3)
  · exact congrArg _ (ctrlWord_of_ctrlOp h4)
  · exact congrArg _ (ctrlWord_of_ctrlOp h5)
  · exact congrArg _ (ctrlWord_of_ctrlOp h6)
  · exact congrArg _ (ctrlWord_of_ctrlOp h7)
  · exact congrArg _ (ctrlWord_of_ctrlOp (opCode_eq_zero h1 h2 h3 h4 h5 h6 h7))

/-! ### Command bytes -/

/-- R211 to R220, R222: the code of the command that a byte stands for is that byte. -/
theorem encode_decodeWire (p : Params) (b : Byte) : encode p (decodeWire p b) = .wire b := by
  unfold decodeWire
  split_ifs with h1 h2 h3 h4 h5 h6 h7 h8 h9
  · exact congrArg _ h1.symm
  · exact congrArg _ h2.symm
  · exact congrArg _ h3.symm
  · exact congrArg _ h4.symm
  · exact congrArg _ h5.symm
  · exact congrArg _ h6.symm
  · exact congrArg _ h7.symm
  · exact congrArg _ h8.symm
  · exact congrArg _ h9.symm
  · rfl

theorem isUnassigned_iff (p : Params) (b : Byte) : isUnassigned p b = true ↔ b ∉ p.codes := by
  simp [isUnassigned]

/-- R220: every byte that is not one of the nine codes stands for an unsupported command. -/
theorem decodeWire_unassigned {p : Params} {b : Byte} (h : b ∉ p.codes) : decodeWire p b = .unsupported b := by
  simp only [Params.codes, List.mem_cons, List.not_mem_nil, not_or] at h
  simp [decodeWire, h]

/-- R220: a byte is read as an unsupported command only if it is not one of the nine codes. -/
theorem wellFormed_decodeWire (p : Params) (b : Byte) : wellFormed p (decodeWire p b) = true := by
  unfold decodeWire
  split_ifs with h1 h2 h3 h4 h5 h6 h7 h8 h9
  case neg => exact (isUnassigned_iff p b).2 (by simp [Params.codes, h1, h2, h3, h4, h5, h6, h7, h8, h9])
  all_goals rfl

/-- R210, R220: with distinct codes a command is read back from its byte. -/
theorem decodeWire_of_encode {p : Params} {i : Instr} {b : Byte} (hp : p.Ok) (hi : wellFormed p i = true) (h : encode p i = .wire b) :
    decodeWire p b = i := by
  -- the codes differ pairwise, whichever of two is named first
  have hr : p.codes.reverse.Nodup := List.nodup_reverse.2 hp
  simp only [Params.Ok, Params.codes, List.reverse_cons, List.reverse_nil, List.nil_append, List.cons_append, List.nodup_cons, List.mem_cons,
    List.not_mem_nil, not_or, or_false] at hp hr
  cases i
  case unsupported c =>
    cases h
    exact decodeWire_unassigned ((isUnassigned_iff p b).1 hi)
  case illegalOp0 | decode | validate | encode | requestData | sendAction | handle | illegalOp7 => cases h
  all_goals
    cases h
    simp [decodeWire, hp, hr]

end Sys2Proof

open Sys2Proof Sys2Proof.Machine

/-- Settles O1: the encoding is a `CTRL` word or a command byte, and each decoder reads it back. -/
theorem decodeOfEncodeIsInstruction : Obligations.DecodeOfEncodeIsInstruction := by
  intro p i hp hi
  cases h : encode p i with
  | ctrl w => exact decodeCtrl_of_encode h
  | wire b => exact decodeWire_of_encode hp hi h

/-- Settles O2, by the codes that the decoders compare with. -/
theorem encodeOfDecodeIsCanonical : Obligations.EncodeOfDecodeIsCanonical :=
  fun p => ⟨encode_decodeCtrl p, fun b => ⟨encode_decodeWire p b, fun _ => wellFormed_decodeWire p b⟩⟩

/-- Settles O3: each word is the encoding of its instruction, but V-X9's, which differs from DECODE's in its reserved bits only. -/
theorem specWordsDecode : Obligations.SpecWordsDecode := by
  intro p
  have hw (i : Instr) {w : Word} (h : encode p i = .ctrl w) : decode p (.ctrl w) = i := decodeCtrl_of_encode h
  have hx9 : decodeCtrl 0xFF0000F9#32 = decodeCtrl 0x00000001#32 := decodeCtrl_congr (by decide)
  exact ⟨hw (.decode 0 0) rfl, hw (.validate 0 0) rfl, hw (.encode 0x07 1) rfl, hw (.requestData 0x03 7) rfl, hw (.sendAction 0x07 1) rfl,
    hw (.handle 0 0) rfl, hw (.illegalOp0 0 0) rfl, hw (.illegalOp7 0 0) rfl, hx9.trans (hw (.decode 0 0) rfl), rfl, rfl⟩

end

section
/-! PROOFS. The start of a host operation (R22, R38, R90): what it latches decides nothing that the operation does not list (R99), and an illegal
code (R98) or an operation of the other role (R97) ends in its own step. -/

namespace Sys2Proof.Machine

/-! ### Operations that end where they start -/

/-- R22, R231: an operation that starts and finishes in one step. -/
theorem finish_start (op : BitVec 3) (c l : Byte) (code : ResultCode) (s : State) :
    (s.start op c l).finish code =
      { s with busy := false, done := true, result := code, tstate := .idle, dstate := .idle, op := op, reqCmd := c, reqLen := l } := rfl

/-- R170. -/
theorem requestDataStart_slave {s : State} (h : s.params.role = .slave) : requestDataStart s = s.finish .roleError := by
  rw [requestDataStart, if_pos (by simp [h])]

/-- R170. -/
theorem sendActionStart_slave {s : State} (h : s.params.role = .slave) : sendActionStart s = s.finish .roleError := by
  rw [sendActionStart, if_pos (by simp [h])]

/-- R190. -/
theorem handleStart_master {s : State} (h : s.params.role = .master) : handleStart s = s.finish .roleError := by
  rw [handleStart, if_pos (by simp [h])]

/-! ### The latched operands -/

/-- The state with other operands latched (R38). -/
def State.withOperands (c l : Byte) (s : State) : State := { s with reqCmd := c, reqLen := l }

/-- The outcome with its next state changed by `f`. -/
def mapNext (f : State → State) : Outcome → Outcome
  | .next s => .next (f s)
  | .fault r => .fault r
  | .refused r => .refused r

@[simp] theorem mapNext_next (f : State → State) (s : State) : mapNext f (.next s) = .next (f s) := rfl
@[simp] theorem mapNext_fault (f : State → State) (r : Fault) : mapNext f (.fault r) = .fault r := rfl

section
variable (c l : Byte) (s : State)

@[simp] theorem withOperands_params : (s.withOperands c l).params = s.params := rfl
@[simp] theorem withOperands_fvalid : (s.withOperands c l).fvalid = s.fvalid := rfl
@[simp] theorem withOperands_dstate : (s.withOperands c l).dstate = s.dstate := rfl
@[simp] theorem withOperands_tstate : (s.withOperands c l).tstate = s.tstate := rfl
@[simp] theorem withOperands_crcOk : (s.withOperands c l).crcOk = s.crcOk := rfl

/-! ### Shared operations that do not look at the operands -/

@[simp] theorem portWrite_withOperands : portWrite (s.withOperands c l) = ((portWrite s).1, (portWrite s).2.withOperands c l) := rfl

@[simp] theorem portReserve_withOperands (n : Byte) :
    portReserve n (s.withOperands c l) = ((portReserve n s).1, (portReserve n s).2.withOperands c l) := rfl

/-- R150: `Encode` is given its command and payload; it looks at no operand. -/
theorem encodeFrame_withOperands (cmd : Byte) (payload : List (Val 8)) :
    encodeFrame cmd payload (s.withOperands c l) =
      ((encodeFrame cmd payload s).1, (encodeFrame cmd payload s).2.withOperands c l) := by
  unfold encodeFrame
  split <;> rfl

@[simp] theorem sendReply_withOperands (r : ResultCode) (cmd : Byte) (payload : List (Val 8)) :
    sendReply r cmd payload (s.withOperands c l) = (sendReply r cmd payload s).withOperands c l := by
  rw [sendReply, encodeFrame_withOperands]
  rfl

theorem validateFrame_withOperands : validateFrame (s.withOperands c l) = (validateFrame s).withOperands c l := by
  unfold validateFrame
  rw [withOperands_fvalid]
  split <;> rfl

theorem handleStart_withOperands : handleStart (s.withOperands c l) = (handleStart s).withOperands c l := by
  unfold handleStart
  rw [withOperands_params]
  split <;> rfl

theorem dispatchUnsupported_withOperands (cmd : Byte) :
    dispatchUnsupported cmd (s.withOperands c l) = (dispatchUnsupported cmd s).withOperands c l :=
  sendReply_withOperands c l { s with appStatus := .known s.params.statusNotSupported } _ _ _

theorem getShutterAction_withOperands : getShutterAction (s.withOperands c l) = (getShutterAction s).withOperands c l := by
  unfold getShutterAction
  rw [withOperands_params]
  split
  · rfl
  · exact dispatchUnsupported_withOperands c l s _

theorem takeLength_withOperands (b : Byte) : takeLength b (s.withOperands c l) = (takeLength b s).withOperands c l := by
  unfold takeLength
  rw [withOperands_params]
  split <;> rfl

theorem writeRequestStep_withOperands : writeRequestStep (s.withOperands c l) = (writeRequestStep s).withOperands c l := by
  simp only [writeRequestStep, portWrite_withOperands]
  rcases portWrite s with ⟨_ | _, t⟩ <;> rfl

theorem writeReplyStep_withOperands (r : ResultCode) : writeReplyStep r (s.withOperands c l) = (writeReplyStep r s).withOperands c l := by
  simp only [writeReplyStep, portWrite_withOperands]
  rcases portWrite s with ⟨_ | _, t⟩ <;> rfl

theorem appGetStep_withOperands (cmd : Byte) (m : PayloadLen) :
    appGetStep cmd m (s.withOperands c l) = (appGetStep cmd m s).withOperands c l :=
  sendReply_withOperands c l (portAppGet cmd m.val s).2 _ _ _

theorem appSetStep_withOperands (cmd : Byte) (m : PayloadLen) :
    appSetStep cmd m (s.withOperands c l) = (appSetStep cmd m s).withOperands c l :=
  sendReply_withOperands c l { (portAppSet cmd (takeCells s.fPay m.val) s).2 with appStatus := .known (appByte s) } _ _ _

/-- R191, R210: no wire command looks at the operands. -/
theorem exec_wire_withOperands {p : Params} {i : Instr} {b : Byte} (h : encode p i = .wire b) :
    exec i (s.withOperands c l) = mapNext (State.withOperands c l) (exec i s) := by
  cases i
  case illegalOp0 | decode | validate | encode | requestData | sendAction | handle | illegalOp7 => cases h
  case getShutterAction => exact congrArg Host.Outcome.next (getShutterAction_withOperands c l s)
  case unsupported cmd => exact congrArg Host.Outcome.next (dispatchUnsupported_withOperands c l s cmd)
  all_goals rfl

end

/-! ### DECODE and HANDLE -/

theorem decodeStep_idle {s : State} (h : s.dstate = .idle) : decodeStep s = .fault .noDecode := by
  rw [decodeStep, if_pos h]

/-- R113. -/
theorem decodeStep_overflow {s : State} (hd : s.dstate ≠ .idle) (ho : s.dstate = .readPayload ∧ s.idx = payloadCap) :
    decodeStep s = afterDecode .overflow (s.decodeEnd .overflow) := by
  rw [decodeStep, if_neg hd, if_pos ho]

/-- R172: only a REQUEST_DATA's `RESERVE` announces a count that depends on `LEN`. -/
theorem reserveCount_of_ne {s : State} (h : s.op ≠ opRequestData) :
    s.reserveCount = BitVec.ofNat 8 (1 + s.params.reserveOverhead.val) := by
  rw [State.reserveCount, if_neg h]

theorem handleFrame_withOperands (c l : Byte) (s : State) (r : ResultCode) :
    handleFrame r (s.withOperands c l) = mapNext (State.withOperands c l) (handleFrame r s) := by
  unfold handleFrame
  rw [withOperands_crcOk]
  split
  · rfl
  split
  · rfl
  · exact exec_wire_withOperands c l s.drawn (encode_decodeWire s.params s.frameCmd)

/-- The operation in progress is DECODE or HANDLE: it waits on port events and lists neither `CMD` nor `LEN` (R99). -/
def ListsNoOperand (s : State) : Prop := s.op = opDecode ∨ s.op = opHandle

section
variable {s : State} (h : ListsNoOperand s) (c l : Byte)
include h

theorem afterDecode_withOperands (r : ResultCode) :
    afterDecode r (s.withOperands c l) = mapNext (State.withOperands c l) (afterDecode r s) := by
  rcases h with hop | hop
  · rw [afterDecode_decode hop, afterDecode_decode (s := s.withOperands c l) hop]
    rfl
  · rw [afterDecode_handle hop, afterDecode_handle (s := s.withOperands c l) hop, handleFrame_withOperands]

theorem reserveCount_withOperands : (s.withOperands c l).reserveCount = s.reserveCount := by
  have hop : s.op ≠ opRequestData := by
    rcases h with hop | hop <;> rw [hop] <;> decide
  rw [reserveCount_of_ne hop, reserveCount_of_ne (s := s.withOperands c l) hop, withOperands_params]

theorem reserveStep_withOperands : reserveStep (s.withOperands c l) = (reserveStep s).withOperands c l := by
  simp only [reserveStep, reserveCount_withOperands h, portReserve_withOperands]
  rcases portReserve s.reserveCount s with ⟨_ | _, t⟩ <;> rfl

theorem takeByte_withOperands (b : Byte) :
    takeByte b (s.withOperands c l) = mapNext (State.withOperands c l) (takeByte b s) := by
  unfold takeByte
  rw [withOperands_dstate]
  split
  · rfl
  · exact congrArg Host.Outcome.next (takeLength_withOperands c l s b)
  · rfl
  · rfl
  · rfl
  · exact afterDecode_withOperands (s := (takeChecksumLo b s).decodeEnd .ok) h c l .ok

theorem pollStep_withOperands : pollStep (s.withOperands c l) = mapNext (State.withOperands c l) (pollStep s) := by
  have ha : nextPoll (s.withOperands c l) = nextPoll s := rfl
  cases hp : nextPoll s with
  | none => rw [pollStep_none hp, pollStep_none (ha.trans hp)]; rfl
  | some b =>
    rw [pollStep_some hp, pollStep_some (ha.trans hp)]
    exact takeByte_withOperands (s := (portPoll s).2) h c l b

theorem decodeStep_withOperands : decodeStep (s.withOperands c l) = mapNext (State.withOperands c l) (decodeStep s) := by
  by_cases hd : s.dstate = .idle
  · rw [decodeStep_idle hd, decodeStep_idle (s := s.withOperands c l) hd, mapNext_fault]
  by_cases ho : s.dstate = .readPayload ∧ s.idx = payloadCap
  · rw [decodeStep_overflow hd ho, decodeStep_overflow (s := s.withOperands c l) hd ho]
    exact afterDecode_withOperands (s := s.decodeEnd .overflow) h c l .overflow
  by_cases hk : s.ticks = 0#32
  · rw [decodeStep_noTicks hd ho hk, decodeStep_noTicks (s := s.withOperands c l) hd ho hk]
    exact afterDecode_withOperands (s := s.decodeEnd .timeout) h c l .timeout
  · rw [decodeStep_polls ⟨hd, ho, hk⟩, decodeStep_polls (s := s.withOperands c l) ⟨hd, ho, hk⟩]
    exact pollStep_withOperands h c l

/-- R99: no later step of DECODE or HANDLE looks at the latched operands. -/
theorem blockStep_withOperands : blockStep (s.withOperands c l) = mapNext (State.withOperands c l) (blockStep s) := by
  cases ht : s.tstate with
  | idle => simp only [blockStep, withOperands_tstate, ht, mapNext_fault]
  | writeRequest => rw [blockStep_writeRequest ht, blockStep_writeRequest (s := s.withOperands c l) ht, writeRequestStep_withOperands, mapNext_next]
  | reserve => rw [blockStep_reserve ht, blockStep_reserve (s := s.withOperands c l) ht, reserveStep_withOperands h, mapNext_next]
  | poll => rw [blockStep_poll ht, blockStep_poll (s := s.withOperands c l) ht, decodeStep_withOperands h]
  | appGet cmd m => rw [blockStep_appGet ht, blockStep_appGet (s := s.withOperands c l) ht, appGetStep_withOperands, mapNext_next]
  | appSet cmd m => rw [blockStep_appSet ht, blockStep_appSet (s := s.withOperands c l) ht, appSetStep_withOperands, mapNext_next]
  | writeReply r => rw [blockStep_writeReply ht, blockStep_writeReply (s := s.withOperands c l) ht, writeReplyStep_withOperands, mapNext_next]

end

/-- R99: the start of an operation that lists neither `CMD` nor `LEN` does the same whatever they are, but for latching them. -/
theorem exec_start_withOperands {i : Byte → Byte → Instr}
    (hi : i ∈ [Instr.decode, Instr.validate, Instr.handle, Instr.illegalOp0, Instr.illegalOp7]) (s : State) (c l c' l' : Byte) :
    exec (i c' l') s = mapNext (State.withOperands c' l') (exec (i c l) s) := by
  simp only [List.mem_cons, List.not_mem_nil, or_false] at hi
  rcases hi with rfl | rfl | rfl | rfl | rfl
  · rfl
  · exact congrArg Host.Outcome.next (validateFrame_withOperands c' l' (s.start opValidate c l))
  · exact congrArg Host.Outcome.next (handleStart_withOperands c' l' (s.start opHandle c l))
  · rfl
  · rfl

/-- R99: the step of a `CTRL` write does not look at the word's reserved bits. -/
theorem step_ctrlWrite_congr (s : State) (rest : List HostAct) {w w' : Word} (h : w &&& 0x00FFFF07#32 = w' &&& 0x00FFFF07#32) :
    step { s with host := .wr 0#8 w :: rest } = step { s with host := .wr 0#8 w' :: rest } := by
  by_cases hb : s.busy = true
  · rw [step_of_write_busy (s := { s with host := .wr 0#8 w :: rest }) rfl hb,
      step_of_write_busy (s := { s with host := .wr 0#8 w' :: rest }) rfl hb]
  · rw [Bool.not_eq_true] at hb
    rw [step_of_ctrlWrite (s := { s with host := .wr 0#8 w :: rest }) rfl hb,
      step_of_ctrlWrite (s := { s with host := .wr 0#8 w' :: rest }) rfl hb, decode, decode, decodeCtrl_congr h]

end Sys2Proof.Machine

open Sys2Proof Sys2Proof.Machine

/-- Settles O18: an illegal code's operation is its start and its end. -/
theorem illegalCodesFinishAtOnce : Obligations.IllegalCodesFinishAtOnce := fun s c l =>
  ⟨congrArg Host.Outcome.next (finish_start opIllegal0 c l .illegalOp s),
    congrArg Host.Outcome.next (finish_start opIllegal7 c l .illegalOp s)⟩

/-- Settles O26: the role is the first thing that each of these operations looks at. -/
theorem otherRoleFinishesRoleError : Obligations.OtherRoleFinishesRoleError := by
  intro s c l
  refine ⟨fun hr => ?_, fun hr => ?_, fun hr => ?_⟩
  · have hrole := requestDataStart_slave (s := s.start opRequestData c l) hr
    exact congrArg Host.Outcome.next (hrole.trans (finish_start opRequestData c l .roleError s))
  · have hrole := sendActionStart_slave (s := s.start opSendAction c l) hr
    exact congrArg Host.Outcome.next (hrole.trans (finish_start opSendAction c l .roleError s))
  · have hrole := handleStart_master (s := s.start opHandle c l) hr
    exact congrArg Host.Outcome.next (hrole.trans (finish_start opHandle c l .roleError s))

/-- Settles O4: a `CTRL` write's step sees the fields of the word alone, and latching other operands commutes with the start and with every
later step of an operation that does not list them. -/
theorem reservedBitsChangeNothing : Obligations.ReservedBitsChangeNothing := by
  refine ⟨fun s rest _ _ => step_ctrlWrite_congr s rest, fun s t c l c' l' i hi h => ?_, fun s t c' l' hop h => ?_⟩
  · rw [exec_start_withOperands hi s c l, h]
    rfl
  · have e := blockStep_withOperands hop c' l'
    rw [h] at e
    exact e

end

section
/-! PROOFS. The decoder (R110 to R132): what the block's step does at each position of a decode, and whole decodes as chains of those steps. -/

namespace Sys2Proof.Machine

/-! ### The start of a decode -/

/-- R111, R22: a decode begun by the start of an operation. -/
theorem beginDecode_start (op : BitVec 3) (c l : Byte) (s : State) :
    beginDecode (s.start op c l) =
      { s with busy := true, done := false, op := op, reqCmd := c, reqLen := l, tstate := .poll, ticks := s.timeout, idx := 0,
               dstate := .seekLength, fvalid := false, fLen := .unspec, fCmd := .unspec, fCrcHi := .unspec, fCrcLo := .unspec,
               fPay := Vector.replicate 26 .unspec } := rfl

theorem handleStart_slave {s : State} (h : s.params.role = .slave) : handleStart s = beginDecode s := by
  rw [handleStart, if_neg (not_not_intro h)]

/-! ### Decodes that fail -/

/-- R122, R231, R232: a decode that fails ends its operation with no frame held, whichever operation runs it. -/
theorem afterDecode_decodeEnd_failed {s : State} {c : ResultCode} (hop : Decodes s) (hc : c ≠ .ok) :
    afterDecode c (s.decodeEnd c) =
      .next { s with busy := false, done := true, fvalid := false, result := c, tstate := .idle, dstate := .idle } := by
  have hv : decide (c = .ok) = false := decide_eq_false hc
  rw [afterDecode_failed (s := s.decodeEnd c) hop hc, State.decodeEnd, hv]
  rfl

/-- R113. -/
theorem blockStep_overflow {s : State} (ht : s.tstate = .poll) (hd : s.dstate = .readPayload) (hi : s.idx = payloadCap) (hop : Decodes s) :
    blockStep s =
      .next { s with busy := false, done := true, fvalid := false, result := .overflow, tstate := .idle, dstate := .idle } := by
  rw [blockStep_poll ht, decodeStep_overflow (by simp [hd]) ⟨hd, hi⟩, afterDecode_decodeEnd_failed hop (by decide)]

/-- R114. -/
theorem blockStep_noTicks {s : State} (ht : s.tstate = .poll) (hd : s.dstate ≠ .idle) (hroom : ¬ (s.dstate = .readPayload ∧ s.idx = payloadCap))
    (hk : s.ticks = 0#32) (hop : Decodes s) :
    blockStep s =
      .next { s with busy := false, done := true, fvalid := false, result := .timeout, tstate := .idle, dstate := .idle } := by
  rw [blockStep_poll ht, decodeStep_noTicks hd hroom hk, afterDecode_decodeEnd_failed hop (by decide)]

/-! ### A byte at each position of a decode -/

section
variable {s : State} {b : Byte} {t : List (Option Byte)} (ht : s.tstate = .poll) (hk : s.ticks ≠ 0#32) (hr : s.rx = some b :: t)
include ht hk hr

/-- R116: a preamble byte is discarded. -/
theorem blockStep_preamble (hd : s.dstate = .seekLength) (hb : b = s.params.preamble) :
    blockStep s = .next { s with rx := t, draws := s.draws + 1, trace := .poll (some b) :: s.trace } := by
  rw [blockStep_poll ht, decodeStep_some ⟨by simp [hd], by simp [hd], hk⟩ hr]
  simp only [takeByte, hd, takeLength, if_pos hb]

/-- R116: any other byte is the length. -/
theorem blockStep_length (hd : s.dstate = .seekLength) (hb : b ≠ s.params.preamble) :
    blockStep s =
      .next { s with rx := t, draws := s.draws + 1, trace := .poll (some b) :: s.trace, fLen := .known b, dstate := .readCommand } := by
  rw [blockStep_poll ht, decodeStep_some ⟨by simp [hd], by simp [hd], hk⟩ hr]
  simp only [takeByte, hd, takeLength, if_neg hb]

/-- R117. -/
theorem blockStep_command {l : Byte} (hd : s.dstate = .readCommand) (hl : s.fLen = .known l) :
    blockStep s =
      .next { s with rx := t, draws := s.draws + 2, trace := .poll (some b) :: s.trace, fCmd := .known b,
                     dstate := if 2 < l.toNat then .readPayload else .readChecksumHi } := by
  rw [blockStep_poll ht, decodeStep_some ⟨by simp [hd], by simp [hd], hk⟩ hr]
  simp only [takeByte, hd, takeCommand, hl, Val.value_known, headerLen_eq, State.drawn]

/-- R118. -/
theorem blockStep_payload {l : Byte} (hd : s.dstate = .readPayload) (hi : s.idx < payloadCap) (hl : s.fLen = .known l) :
    blockStep s =
      .next { s with rx := t, draws := s.draws + 2, trace := .poll (some b) :: s.trace, fPay := writeCell s.fPay s.idx (.known b),
                     idx := s.idx + 1, dstate := if s.idx + 1 + 2 = l.toNat then .readChecksumHi else .readPayload } := by
  rw [blockStep_poll ht, decodeStep_some ⟨by simp [hd], fun h => hi.ne h.2, hk⟩ hr]
  simp only [takeByte, hd, takePayload, hl, Val.value_known, headerLen_eq, State.drawn]

/-- R119. -/
theorem blockStep_checksumHi (hd : s.dstate = .readChecksumHi) :
    blockStep s =
      .next { s with rx := t, draws := s.draws + 1, trace := .poll (some b) :: s.trace, fCrcHi := .known b, dstate := .readChecksumLo } := by
  rw [blockStep_poll ht, decodeStep_some ⟨by simp [hd], by simp [hd], hk⟩ hr]
  simp only [takeByte, hd, takeChecksumHi]

/-- R120, R124: the last byte ends a DECODE. -/
theorem blockStep_checksumLo (hd : s.dstate = .readChecksumLo) (hop : s.op = opDecode) :
    blockStep s =
      .next { s with rx := t, draws := s.draws + 1, trace := .poll (some b) :: s.trace, fCrcLo := .known b, fvalid := true, busy := false,
                     done := true, result := .ok, tstate := .idle, dstate := .idle } := by
  rw [blockStep_poll ht, decodeStep_lastByte hd hk hr, afterDecode_decode (by exact hop)]
  rfl

end

/-! ### The tick count (R115) -/

theorem Dispatched.ticks {s t : State} (h : Dispatched s t) : t.ticks = s.ticks := by
  cases h with
  | read | write => rfl
  | unsupported c =>
    obtain ⟨k, b, n, e⟩ := sendReply_frame .notSupported c [.known s.params.statusNotSupported]
      { s with appStatus := .known s.params.statusNotSupported }
    rw [dispatchUnsupported, e]

theorem DecodeFollowed.ticks {c : ResultCode} {s t : State} (h : DecodeFollowed c s t) : t.ticks = s.ticks := by
  cases h with
  | dispatched _ _ _ ht => exact ht.ticks
  | ended | discarded | copied | status => rfl

/-- R115: a received byte consumes no tick, whatever the operation goes on to do with it. -/
theorem takeByte_ticks {b : Byte} {s t : State} (h : takeByte b s = .next t) : t.ticks = s.ticks := by
  unfold takeByte at h
  split at h
  · cases h
  · cases h; rcases takeLength_cases b s with e | e <;> rw [e]
  · cases h; rfl
  · cases h; rfl
  · cases h; rfl
  · exact (afterDecode_followed h).ticks

/-! ### Stretches of a decode -/

theorem run_succ_of_blockStep {n : Nat} {s t : State} (h : blockStep s = .next t) (hb : s.busy = true) (hh : s.host = []) :
    Sys2Proof.core.run (n + 1) s = Sys2Proof.core.run n t :=
  run_succ_of_next ((step_of_idle_host hh hb).trans h)

section
variable {s : State} {rest : List (Option Byte)} (hb : s.busy = true) (hh : s.host = []) (ht : s.tstate = .poll) (hk : s.ticks ≠ 0#32)
include hb hh ht hk

/-- R116, R265: preamble bytes leave the decode where it is. -/
theorem run_preambles {n : Nat} (hd : s.dstate = .seekLength) (hr : s.rx = List.replicate n (some s.params.preamble) ++ rest) :
    Sys2Proof.core.run n s =
      .next { s with rx := rest, draws := s.draws + n, trace := List.replicate n (.poll (some s.params.preamble)) ++ s.trace } := by
  induction n generalizing s with
  | zero =>
    have hrest : s.rx = rest := hr
    rw [← hrest]
    rfl
  | succ n ih =>
    refine (run_succ_of_blockStep (blockStep_preamble ht hk hr hd rfl) hb hh).trans (Eq.trans (ih hb hh ht hk hd rfl) ?_)
    simp only [List.replicate_succ', List.append_assoc, Nat.add_assoc, Nat.add_comm 1, List.singleton_append]

/-- R118: the payload bytes of a frame that has more of them are taken one a step. -/
theorem run_payload {l : Byte} {ps : List Byte} (hd : s.dstate = .readPayload) (hl : s.fLen = .known l)
    (hcap : s.idx + ps.length ≤ payloadCap) (hmore : s.idx + ps.length + 2 < l.toNat) (hr : s.rx = ps.map some ++ rest) :
    ∃ k fPay', Sys2Proof.core.run ps.length s =
      .next { s with rx := rest, draws := k, fPay := fPay', idx := s.idx + ps.length,
                     trace := (ps.reverse.map fun b => PortEvent.poll (some b)) ++ s.trace } := by
  induction ps generalizing s with
  | nil =>
    have hrest : s.rx = rest := hr
    exact ⟨s.draws, s.fPay, by rw [← hrest]; rfl⟩
  | cons p ps ih =>
    rw [List.length_cons] at hcap hmore
    have hstep := blockStep_payload ht hk hr hd (by omega) hl
    rw [if_neg (by omega), ← hd] at hstep
    obtain ⟨k, fPay', hrun⟩ := ih
      (s := { s with rx := ps.map some ++ rest, draws := s.draws + 2, trace := .poll (some p) :: s.trace,
                     fPay := writeCell s.fPay s.idx (.known p), idx := s.idx + 1 })
      hb hh ht hk hd hl (by simp only; omega) (by simp only; omega) rfl
    refine ⟨k, fPay', (run_succ_of_blockStep hstep hb hh).trans (hrun.trans ?_)⟩
    simp [Nat.add_assoc, Nat.add_comm 1]

/-- R113, R128: the length, the command and 26 payload bytes of an oversized frame are taken, and the decode is about to overflow. -/
theorem run_oversized {l c : Byte} {bs : List Byte} (hd : s.dstate = .seekLength) (hi : s.idx = 0) (hlong : maxLength < l.toNat)
    (hl : l ≠ s.params.preamble) (hn : bs.length = payloadCap) (hr : s.rx = some l :: some c :: (bs.map some ++ rest)) :
    ∃ k fPay', Sys2Proof.core.run (bs.length + 2) s =
      .next { s with rx := rest, draws := k, fLen := .known l, fCmd := .known c, fPay := fPay', idx := payloadCap, dstate := .readPayload,
                     trace := (bs.reverse.map fun b => PortEvent.poll (some b)) ++ .poll (some c) :: .poll (some l) :: s.trace } := by
  simp only [payloadCap_eq, maxLength_eq] at hn hlong
  have hlen := blockStep_length ht hk hr hd hl
  have hcmd := blockStep_command (b := c) (t := bs.map some ++ rest) (l := l)
    (s := { s with rx := some c :: (bs.map some ++ rest), draws := s.draws + 1, trace := .poll (some l) :: s.trace,
                   fLen := .known l, dstate := .readCommand }) ht hk rfl rfl rfl
  rw [if_pos (by omega)] at hcmd
  obtain ⟨k, fPay', hrun⟩ := run_payload
    (s := { s with rx := bs.map some ++ rest, draws := s.draws + 1 + 2, trace := .poll (some c) :: .poll (some l) :: s.trace,
                   fLen := .known l, fCmd := .known c, dstate := .readPayload })
    hb hh ht hk rfl rfl (by simp [hi, hn]) (by simp only [hi, hn]; omega) rfl
  refine ⟨k, fPay', (run_succ_of_blockStep hlen hb hh).trans ((run_succ_of_blockStep hcmd hb hh).trans (hrun.trans ?_))⟩
  simp only [hi, hn, payloadCap_eq, Nat.zero_add]

end

/-! ### What a stretch of a decode leaves alone -/

section
variable {s t : State} {as : List (Option Byte)} (h : Progress s t as)
include h

theorem Progress.params : t.params = s.params := by rw [h.same]
theorem Progress.op : t.op = s.op := by rw [h.same]
theorem Progress.out : t.out = s.out := by rw [h.same]
theorem Progress.outLen : t.outLen = s.outLen := by rw [h.same]
theorem Progress.appStatus : t.appStatus = s.appStatus := by rw [h.same]
theorem Progress.txb : t.txb = s.txb := by rw [h.same]
theorem Progress.txLen : t.txLen = s.txLen := by rw [h.same]

end

/-! ### An encoded frame (R152, R153, R159) -/

/-- R156, R152: an ENCODE of `bs` ends OK and leaves the wire frame of `bs` to transmit. -/
theorem exec_encode_known {e e' : State} {c : Byte} {bs : List Byte} (hn : bs.length ≤ payloadCap)
    (harg : ∀ i (h : i < bs.length), readCell e.arg i = .known bs[i]) (h : exec (.encode c (BitVec.ofNat 8 bs.length)) e = .next e') :
    e'.result = .ok ∧ e'.txFrame = wireFrame e.params c bs := by
  have hlen : (BitVec.ofNat 8 bs.length).toNat = bs.length := by
    simp only [payloadCap_eq] at hn
    simp only [BitVec.toNat_ofNat]
    omega
  have he : encodeArgs (e.start opEncode c (BitVec.ofNat 8 bs.length)) = e' := Host.Outcome.next.inj h
  have hcells : (e.start opEncode c (BitVec.ofNat 8 bs.length)).argCells = knownCells bs := by
    rw [State.argCells, State.start_reqLen, hlen]
    exact takeCells_eq_knownCells e.arg bs hn harg
  have hfits : ¬ payloadCap < (e.start opEncode c (BitVec.ofNat 8 bs.length)).reqLen.toNat := by
    rw [State.start_reqLen, hlen]
    exact Nat.not_lt.2 hn
  rw [encodeArgs, if_neg hfits, hcells] at he
  subst he
  constructor
  · rw [encodeFrame_ok _ (by simpa using hn)]
    rfl
  · exact txFrame_encodeFrame (e.start opEncode c (BitVec.ofNat 8 bs.length)) hn

/-- R141, R152: the range of a held frame is what the encoder takes the checksum over. -/
theorem crcOk_of_encoded {s : State} {c : Byte} {bs : List Byte} (hn : bs.length ≤ payloadCap) (hlen : s.fLen = .known (lengthByte bs.length))
    (hcmd : s.fCmd = .known c) (hpay : ∀ i (h : i < bs.length), readCell s.fPay i = .known bs[i])
    (hhi : s.fCrcHi = .known (hiByte (pCrc s.params.crc (lengthByte bs.length :: c :: bs))))
    (hlo : s.fCrcLo = .known (loByte (pCrc s.params.crc (lengthByte bs.length :: c :: bs)))) : s.crcOk = true := by
  have hrange : s.frameRange = lengthByte bs.length :: c :: bs := frameRange_of_held hlen hcmd (lengthByte_toNat hn) hn hpay
  simp only [State.crcOk, hrange, State.frameCrc, hhi, hlo, Val.value_known, hiByte_append_loByte, decide_true]

end Sys2Proof.Machine

open Sys2Proof Sys2Proof.Machine

/-- Settles O55: the frame's bytes but the last are a stretch of the decode (`Progress.of_frame`), and the last ends it; the checksum is right
because the decoder's range is what the encoder's was taken over. -/
theorem encodedFrameDecodes : Obligations.EncodedFrameDecodes := by
  intro e e' s k c bs answers rest hn harg he hparams hfree hb hh ht hd hi hop hf hc hlast hr
  obtain ⟨hres, htx⟩ := exec_encode_known hn harg he
  rw [htx, ← hparams] at hf
  have hpoll : Polling s := ⟨hb, hh, ht, by simp [hd], by simp [hd]⟩
  obtain ⟨v, as, has, hprog, hk, hrx, hvd, hlen, hcmd, hhi, hpay, hkeep, -⟩ :=
    Progress.of_frame hpoll hd hi hfree hn hf hc hlast hr
  have hpollv : Polling v := hprog.polling hpoll (by simp [hvd]) (by simp [hvd])
  have hdone := blockStep_checksumLo hpollv.tstate hk hrx hvd (hprog.op.trans hop)
  have hend := run_succ_of_blockStep (n := 0) hdone hpollv.busy hpollv.host
  have hlength : answers.length = as.length + 1 := by rw [has, List.length_append]; rfl
  have hcount : answers.count none = as.count none := by rw [has, List.count_append]; rfl
  obtain ⟨polls, htrace, hpolls⟩ := hprog.trace
  rw [hlength, hcount]
  refine ⟨hres, _, (run_add hprog.run).trans hend, rfl, rfl, rfl, rfl, hlen, hcmd, hpay, hkeep, hhi, rfl, ?_, rfl, hprog.out, hprog.outLen,
    hprog.appStatus, hprog.txb, hprog.txLen, hprog.ticks, hprog.noBytes, _ :: polls, congrArg _ htrace, ?_⟩
  · rw [← hprog.params] at hhi
    exact crcOk_of_encoded hn hlen hcmd hpay hhi (by rw [hprog.params])
  · exact List.forall_mem_cons.2 ⟨.inr ⟨_, rfl⟩, hpolls⟩

/-- Settles O32: the tick count of R115 on both answers; a byte may end the decode, and what follows it consumes none either. -/
theorem failedPollCostsOneTick : Obligations.FailedPollCostsOneTick := by
  intro s ht hd hroom hk
  refine ⟨fun t hr => ?_, ticks_pred hk, fun b t u hr h => ?_⟩
  · rw [blockStep_poll ht, decodeStep_none ⟨hd, hroom, hk⟩ hr]
    rfl
  · rw [blockStep_poll ht, decodeStep_some ⟨hd, hroom, hk⟩ hr] at h
    have hticks := takeByte_ticks h
    exact hticks

/-- Settles O35: the element written is read back, and every other is kept. -/
theorem readPayloadTakesByte : Obligations.ReadPayloadTakesByte := by
  intro s b l t ht hd hi hk hr hl
  refine ⟨_, _, ?_, fun i hne => ?_, blockStep_payload ht hk hr hd hi hl⟩
  · rw [readCell_writeCell, if_pos ⟨rfl, hi⟩]
  · rw [readCell_writeCell, if_neg fun h => hne h.1.symm]

/-- Settles O52: after as many failed polls as there are ticks none is left, and the next step is the one of R114. -/
theorem timeoutAfterExactlyTheBudget : Obligations.TimeoutAfterExactlyTheBudget := by
  intro s rest hb hh ht hd hroom hop hr
  have hpoll : Polling s := ⟨hb, hh, ht, hd, hroom⟩
  obtain ⟨u, hu, hrx, hsame, htrace⟩ := Progress.of_failedPolls hpoll le_rfl hr
  have hpollu : Polling u := hu.polling hpoll (by rw [hsame]; exact hd) (by rw [hsame]; exact hroom)
  have hspent := hu.ticks
  have hrun := hu.run
  rw [List.count_replicate_self, Nat.add_eq_right] at hspent
  rw [List.length_replicate] at hrun
  have hstep := blockStep_noTicks hpollu.tstate hpollu.dstate hpollu.room (BitVec.eq_of_toNat_eq hspent) (by rw [Decodes, hu.op]; exact hop)
  exact ⟨_, (run_add hrun).trans (run_succ_of_blockStep (n := 0) hstep hpollu.busy hpollu.host), rfl, rfl, rfl, rfl, hrx, htrace⟩

/-- Settles O53, by induction on the number of preamble bytes (`run_preambles`). -/
theorem preambleFloodNeverEnds : Obligations.PreambleFloodNeverEnds :=
  fun _ _ _ hb hh ht hd hk hr => run_preambles hb hh ht hk hd hr

/-- Settles O54: the 28 bytes taken leave the decode at R113's overflow. -/
theorem oversizedFrameOverflows : Obligations.OversizedFrameOverflows := by
  intro s l c bs rest hb hh ht hd hi hop hk hlong hl hn hr
  obtain ⟨k, fPay', hrun⟩ := run_oversized hb hh ht hk hd hi hlong hl hn hr
  rw [hn] at hrun
  refine ⟨_, (run_add hrun).trans (run_succ_of_blockStep (n := 0) (blockStep_overflow ?_ rfl rfl ?_) hb hh), rfl, rfl, rfl, rfl, rfl, rfl⟩
  · exact ht
  · exact hop

/-- Settles O19: both operations begin their decode in the step that latches their operands. -/
theorem decodeAndHandleStartFresh : Obligations.DecodeAndHandleStartFresh := by
  intro s c l
  refine ⟨congrArg Host.Outcome.next (beginDecode_start opDecode c l s), fun hr => ?_⟩
  have hrole := handleStart_slave (s := s.start opHandle c l) hr
  exact congrArg Host.Outcome.next (hrole.trans (beginDecode_start opHandle c l s))

/-- Settles O30: the overflow check comes first, and a failed decode ends every operation alike. -/
theorem overflowEndsDecode : Obligations.OverflowEndsDecode := fun _ ht hd hi hop => blockStep_overflow ht hd hi hop

/-- Settles O31: the tick check comes before the poll, and a failed decode ends every operation alike. -/
theorem noTicksEndsDecode : Obligations.NoTicksEndsDecode := fun _ ht hd hroom hk hop => blockStep_noTicks ht hd hroom hk hop

/-- Settles O33, by the two ways of SEEK_LENGTH. -/
theorem seekLengthTakesByte : Obligations.SeekLengthTakesByte := fun _ _ _ ht hd hk hr =>
  ⟨blockStep_preamble ht hk hr hd, blockStep_length ht hk hr hd⟩

/-- Settles O34: the length decides between the two next states. -/
theorem readCommandTakesByte : Obligations.ReadCommandTakesByte := by
  intro s b l t ht hd hk hr hl
  have hstep := blockStep_command ht hk hr hd hl
  refine ⟨fun hlong => ⟨s.draws + 2, ?_⟩, fun hshort => ⟨s.draws + 2, ?_⟩⟩
  · rw [hstep, if_pos hlong]
  · rw [hstep, if_neg (Nat.not_lt.2 hshort)]

/-- Settles O36, a byte at each of the two checksum positions. -/
theorem checksumBytesEndDecode : Obligations.ChecksumBytesEndDecode := fun _ _ _ ht hk hr =>
  ⟨blockStep_checksumHi ht hk hr, blockStep_checksumLo ht hk hr⟩

end

section
/-! PROOFS. VALIDATE (R144 to R148): the verdict on a frame held with known bytes, and how a changed byte turns it. -/

namespace Sys2Proof.Machine

/-! ### Frames held with known bytes -/

/-- A frame is held, and its length, command, checksum and the payload elements its length calls for are the given bytes (R121, R146). -/
structure HeldFrame (s : State) (len cmd hi lo : Byte) (bs : List Byte) : Prop where
  fvalid : s.fvalid = true
  fLen : s.fLen = .known len
  fCmd : s.fCmd = .known cmd
  fCrcHi : s.fCrcHi = .known hi
  fCrcLo : s.fCrcLo = .known lo
  length : bs.length = payloadDue len
  fits : bs.length ≤ payloadCap
  payload : ∀ i (h : i < bs.length), readCell s.fPay i = .known bs[i]

section
variable {s : State} {len cmd hi lo : Byte} {bs : List Byte}

/-- A payload byte written over another one. -/
theorem HeldFrame.writePayload (h : HeldFrame s len cmd hi lo bs) {i : Nat} (hlt : i < bs.length) (b : Byte) :
    HeldFrame { s with fPay := writeCell s.fPay i (.known b) } len cmd hi lo (bs.set i b) where
  fvalid := h.fvalid
  fLen := h.fLen
  fCmd := h.fCmd
  fCrcHi := h.fCrcHi
  fCrcLo := h.fCrcLo
  length := List.length_set.trans h.length
  fits := List.length_set.trans_le h.fits
  payload j hj := by
    rw [List.length_set] at hj
    rw [readCell_writeCell, List.getElem_set]
    by_cases hij : i = j
    · rw [if_pos ⟨hij, hlt.trans_le h.fits⟩, if_pos hij]
    · rw [if_neg fun e => hij e.1, if_neg hij, h.payload j hj]

/-- The command byte written over. -/
theorem HeldFrame.writeCommand (h : HeldFrame s len cmd hi lo bs) (b : Byte) :
    HeldFrame { s with fCmd := .known b } len b hi lo bs :=
  { h with fCmd := rfl }

/-! ### The verdict -/

/-- R145: no checksum is computed. -/
theorem exec_validate_noFrame (c l : Byte) (h : s.fvalid = false) :
    exec (.validate c l) s =
      .next { s with busy := false, done := true, result := .argError, tstate := .idle, dstate := .idle, op := opValidate,
                     reqCmd := c, reqLen := l } := by
  have hv : (s.start opValidate c l).fvalid ≠ true := by simp [h]
  exact congrArg Host.Outcome.next (if_neg hv)

/-- R144, R141, R146: the verdict is `crcOk_eq`'s; the operands that the start latches are no part of the frame. -/
theorem HeldFrame.exec_validate (h : HeldFrame s len cmd hi lo bs) (c l : Byte) :
    exec (.validate c l) s =
      .next { s with busy := false, done := true, tstate := .idle, dstate := .idle, op := opValidate, reqCmd := c, reqLen := l,
                     draws := s.draws + 1,
                     result := if pCrc s.params.crc ((len :: cmd :: bs).take len.toNat) = hi ++ lo then .ok else .malformed } := by
  have hv : (s.start opValidate c l).fvalid = true := h.fvalid
  have hcrc : (s.start opValidate c l).crcOk = decide (pCrc s.params.crc ((len :: cmd :: bs).take len.toNat) = hi ++ lo) :=
    crcOk_eq (s := s.start opValidate c l) h.fLen h.fCmd h.fCrcHi h.fCrcLo h.length h.fits h.payload
  have hframe : validateFrame (s.start opValidate c l) = _ := if_pos hv
  simp only [hcrc, decide_eq_true_eq] at hframe
  exact congrArg Host.Outcome.next hframe

/-- R144: an intact frame's checksum is the one it holds. -/
theorem HeldFrame.crc_of_intact (h : HeldFrame s len cmd hi lo bs) {c l : Byte} {t : State} (ht : exec (.validate c l) s = .next t)
    (hok : t.result = .ok) : pCrc s.params.crc ((len :: cmd :: bs).take len.toNat) = hi ++ lo := by
  by_contra hne
  rw [h.exec_validate, if_neg hne] at ht
  rw [← Host.Outcome.next.inj ht] at hok
  cases hok

/-- R144: a frame whose checksum is not the one it holds is MALFORMED. -/
theorem HeldFrame.malformed (h : HeldFrame s len cmd hi lo bs) (c l : Byte)
    (hne : pCrc s.params.crc ((len :: cmd :: bs).take len.toNat) ≠ hi ++ lo) :
    ∃ t, exec (.validate c l) s = .next t ∧ t.result = .malformed :=
  ⟨_, h.exec_validate c l, if_neg hne⟩

end

end Sys2Proof.Machine

open Sys2Proof Sys2Proof.Machine

/-- Settles O20, by whether a frame is held. -/
theorem validateComparesChecksum : Obligations.ValidateComparesChecksum := by
  intro s c l
  refine ⟨exec_validate_noFrame c l, fun len cmd hi lo bs hv hl hc hhi hlo hlen hn hp => ?_⟩
  have held : HeldFrame s len cmd hi lo bs := ⟨hv, hl, hc, hhi, hlo, hlen, hn, hp⟩
  exact held.exec_validate c l

/-- Settles O21: the changed frame is held with the same checksum, which was that of the bytes before the change. -/
theorem validateDetectsChangedByte : Obligations.ValidateDetectsChangedByte := by
  intro s c l len cmd hi lo b bs hv hl hc hhi hlo hlen hn hp ⟨t, ht, hok⟩
  have held : HeldFrame s len cmd hi lo bs := ⟨hv, hl, hc, hhi, hlo, by simp only [payloadDue, headerLen_eq]; omega, hn, hp⟩
  have whole : ∀ (x : Byte) (ys : List Byte), ys.length = bs.length → (len :: x :: ys).take len.toNat = len :: x :: ys :=
    fun x ys hys => List.take_of_length_le (by simp only [List.length_cons]; omega)
  have hcrc := held.crc_of_intact ht hok
  rw [whole cmd bs rfl] at hcrc
  refine ⟨fun i hlt hne => (held.writePayload hlt b).malformed c l ?_, fun hne => (held.writeCommand b).malformed c l ?_⟩
  · rw [whole cmd _ List.length_set, ← hcrc]
    exact hne
  · rw [whole b bs rfl, ← hcrc]
    exact hne

end

section
/-! PROOFS. The encoder (R150 to R156): the frame that ENCODE builds of the operand bytes, and the operands too long for a frame (R151, R177, R182). -/

namespace Sys2Proof.Machine

variable {s : State}

/-- R152: the checksum of the operand bytes' frame is taken over one reading of them. -/
theorem State.encodeCrc_argCells (cmd : Byte) (h : s.reqLen.toNat ≤ payloadCap) :
    s.encodeCrc cmd s.argCells = pCrc s.params.crc (lengthByte s.reqLen.toNat :: cmd :: valuesFrom s.draws 0 s.argCells) := by
  rw [State.encodeCrc, State.argCells_length h]

/-- R80, R153 to R155: the elements of the transmit buffer after the operand bytes' frame was laid out in it. -/
theorem readCell_argFrame (cmd : Byte) (h : s.reqLen.toNat ≤ payloadCap) :
    let n := s.reqLen.toNat
    let crc := pCrc s.params.crc (lengthByte n :: cmd :: valuesFrom s.draws 0 s.argCells)
    let txb' := writeCells s.txb 0 (s.frameCells cmd s.argCells)
    readCell txb' 0 = .known s.params.preamble ∧ readCell txb' 1 = .known (lengthByte n) ∧ readCell txb' 2 = .known cmd ∧
      (∀ i, i < n → readCell txb' (3 + i) = readCell s.arg i) ∧
      readCell txb' (3 + n) = .known (hiByte crc) ∧ readCell txb' (4 + n) = .known (loByte crc) ∧
      (∀ i, n + 5 ≤ i → readCell txb' i = readCell s.txb i) := by
  obtain ⟨hpre, hlength, hcmd, hpay, hhi, hlo, hrest⟩ := readCell_frame s s.txb cmd (State.argCells_length h) h
  rw [State.encodeCrc_argCells cmd h] at hhi hlo
  exact ⟨hpre, hlength, hcmd, fun i hi => hpay i _ (State.argCells_getElem? h hi), hhi, hlo, hrest⟩

/-- R156, R152: ENCODE of operands that fit lays out their frame and ends OK. -/
theorem encodeArgs_ok (h : s.reqLen.toNat ≤ payloadCap) :
    encodeArgs s =
      { s with busy := false, done := true, result := .ok, tstate := .idle, dstate := .idle, draws := s.draws + 1,
               txb := writeCells s.txb 0 (s.frameCells s.reqCmd s.argCells), txLen := BitVec.ofNat 7 (s.reqLen.toNat + overhead) } := by
  have hlen := State.argCells_length h
  rw [encodeArgs, if_neg (Nat.not_lt.2 h), encodeFrame_ok s (hlen.trans_le h), hlen]
  rfl

/-- R156. -/
theorem encodeArgs_tooLong (h : payloadCap < s.reqLen.toNat) : encodeArgs s = s.finish .encodeTooLong := by
  rw [encodeArgs, if_pos h]

/-- R177. -/
theorem requestDataStart_tooLong (hr : s.params.role = .master) (h : payloadCap < s.reqLen.toNat) :
    requestDataStart s = s.finish .argError := by
  rw [requestDataStart, if_neg (not_not_intro hr), if_pos h]

/-- R182. -/
theorem sendActionStart_tooLong (hr : s.params.role = .master) (h : payloadCap < s.reqLen.toNat) :
    sendActionStart s = s.finish .encodeTooLong := by
  rw [sendActionStart, if_neg (not_not_intro hr), if_pos h]

end Sys2Proof.Machine

open Sys2Proof Sys2Proof.Machine

/-- Settles O22: the frame is laid out from the operands that the start has latched, and `vals` is the reading of them that its checksum took. -/
theorem encodeBuildsFrame : Obligations.EncodeBuildsFrame := by
  intro s c l hl
  have hfits : (s.start opEncode c l).reqLen.toNat ≤ payloadCap := hl
  exact ⟨_, valuesFrom s.draws 0 (s.start opEncode c l).argCells, congrArg Host.Outcome.next (encodeArgs_ok hfits),
    (valuesFrom_length _ _ _).trans (State.argCells_length hfits), fun _ _ hi hb => State.valuesFrom_argCells _ hfits hi hb,
    readCell_argFrame c hfits⟩

/-- Settles O23: each of the three ends in the step that latches its operands (`finish_start`). -/
theorem longOperandsAreRefused : Obligations.LongOperandsAreRefused := fun s c l hl =>
  ⟨congrArg Host.Outcome.next (encodeArgs_tooLong (s := s.start opEncode c l) hl),
    fun hr => congrArg Host.Outcome.next (sendActionStart_tooLong (s := s.start opSendAction c l) hr hl),
    fun hr => congrArg Host.Outcome.next (requestDataStart_tooLong (s := s.start opRequestData c l) hr hl)⟩

end

section
/-! PROOFS. The master's transactions (R170 to R183): the request that REQUEST_DATA and SEND_ACTION build, the `WRITE` and the `RESERVE` that
follow, what they do with the reply, and whole operations as chains of those steps. -/

namespace Sys2Proof.Machine

/-! ### The request -/

/-- R171: a master's REQUEST_DATA of at most 26 bytes goes on to its request. -/
theorem requestDataStart_ok {s : State} (hr : s.params.role = .master) (h : s.reqLen.toNat ≤ payloadCap) :
    requestDataStart s = sendRequest [] s := by
  rw [requestDataStart, if_neg (not_not_intro hr), if_neg (Nat.not_lt.2 h)]

/-- R178: a master's SEND_ACTION of at most 26 bytes goes on to its request. -/
theorem sendActionStart_ok {s : State} (hr : s.params.role = .master) (h : s.reqLen.toNat ≤ payloadCap) :
    sendActionStart s = sendRequest s.argCells s := by
  rw [sendActionStart, if_neg (not_not_intro hr), if_neg (Nat.not_lt.2 h)]

/-- R178, R152: the request of the operand bytes. -/
theorem sendRequest_argCells {s : State} (h : s.reqLen.toNat ≤ payloadCap) :
    sendRequest s.argCells s =
      { s with draws := s.draws + 1, txb := writeCells s.txb 0 (s.frameCells s.reqCmd s.argCells),
               txLen := BitVec.ofNat 7 (s.reqLen.toNat + overhead), tstate := .writeRequest } := by
  have hlen := State.argCells_length h
  rw [sendRequest_eq s (hlen.trans_le h), hlen]

/-! ### The `WRITE` and the `RESERVE` -/

section
variable {s : State} {a : Ack} {t : List Ack} (ha : s.acks = a :: t)
include ha

theorem portWrite_planned :
    portWrite s = (a, { s with acks := t, draws := s.draws + 1, trace := .write s.txFrame a :: s.trace }) := by
  rw [portWrite, nextAck_cons ha, ha]
  rfl

theorem portReserve_planned (n : Byte) :
    portReserve n s = (a, { s with acks := t, draws := s.draws + 1, trace := .reserve n a :: s.trace }) := by
  rw [portReserve, nextAck_cons ha, ha]
  rfl

end

section
variable {s : State} {t : List Ack}

/-- R171, R178: a request that was written waits on its `RESERVE`. -/
theorem blockStep_requestWritten (ht : s.tstate = .writeRequest) (ha : s.acks = .ok :: t) :
    blockStep s =
      .next { s with acks := t, draws := s.draws + 1, trace := .write s.txFrame .ok :: s.trace, tstate := .reserve } := by
  rw [blockStep_writeRequest ht, writeRequestStep, portWrite_planned ha]

/-- R171, R178: a request that the transport refuses ends its operation. -/
theorem blockStep_requestRefused (ht : s.tstate = .writeRequest) (ha : s.acks = .fail :: t) :
    blockStep s =
      .next { s with acks := t, draws := s.draws + 1, trace := .write s.txFrame .fail :: s.trace, busy := false, done := true,
                     result := .txFailed, tstate := .idle, dstate := .idle } := by
  rw [blockStep_writeRequest ht, writeRequestStep, portWrite_planned ha]
  rfl

/-- R172, R111: after the `RESERVE` the decode of the reply begins. -/
theorem blockStep_reserved (ht : s.tstate = .reserve) (ha : s.acks = .ok :: t) :
    blockStep s =
      .next (beginDecode { s with acks := t, draws := s.draws + 1, trace := .reserve s.reserveCount .ok :: s.trace }) := by
  rw [blockStep_reserve ht, reserveStep, portReserve_planned ha]

/-- R172: a `RESERVE` that the transport refuses ends the operation. -/
theorem blockStep_reserveRefused (ht : s.tstate = .reserve) (ha : s.acks = .fail :: t) :
    blockStep s =
      .next { s with acks := t, draws := s.draws + 1, trace := .reserve s.reserveCount .fail :: s.trace, busy := false, done := true,
                     result := .requestFailed, tstate := .idle, dstate := .idle } := by
  rw [blockStep_reserve ht, reserveStep, portReserve_planned ha]
  rfl

end

/-- R172. -/
theorem reserveCount_requestData {s : State} (h : s.op = opRequestData) :
    s.reserveCount = BitVec.ofNat 8 (s.reqLen.toNat + s.params.reserveOverhead.val) := by
  rw [State.reserveCount, if_pos h]

/-- R172. -/
theorem reserveCount_sendAction {s : State} (h : s.op = opSendAction) :
    s.reserveCount = BitVec.ofNat 8 (1 + s.params.reserveOverhead.val) :=
  reserveCount_of_ne (by rw [h]; decide)

/-! ### The reply (R175) -/

/-- A decode has taken all of a frame but its last checksum byte (R116 to R119), and is about to poll for that. -/
structure AwaitsLastByte (s : State) (len cmd hi : Byte) (bs : List Byte) : Prop where
  tstate : s.tstate = .poll
  dstate : s.dstate = .readChecksumLo
  ticks : s.ticks ≠ 0#32
  fLen : s.fLen = .known len
  fCmd : s.fCmd = .known cmd
  fCrcHi : s.fCrcHi = .known hi
  length : bs.length = payloadDue len
  fits : bs.length ≤ payloadCap
  payload : ∀ i (h : i < bs.length), readCell s.fPay i = .known bs[i]

/-- The frame is held once its last byte `b` is taken, `t` being what the transport has left (R120, R122). -/
def State.lastByteTaken (b : Byte) (t : List (Option Byte)) (s : State) : State :=
  { s with rx := t, draws := s.draws + 1, trace := .poll (some b) :: s.trace, fCrcLo := .known b, fvalid := true, dstate := .idle }

section
variable {s : State} {len cmd hi : Byte} {bs : List Byte} (h : AwaitsLastByte s len cmd hi bs) {b : Byte} {t : List (Option Byte)}
include h

theorem AwaitsLastByte.held (b : Byte) (t : List (Option Byte)) : HeldFrame (s.lastByteTaken b t) len cmd hi b bs :=
  ⟨rfl, h.fLen, h.fCmd, h.fCrcHi, rfl, h.length, h.fits, h.payload⟩

theorem AwaitsLastByte.blockStep_eq (hr : s.rx = some b :: t) : blockStep s = afterDecode .ok (s.lastByteTaken b t) := by
  rw [blockStep_poll h.tstate, decodeStep_lastByte h.dstate h.ticks hr]
  rfl

theorem AwaitsLastByte.blockStep_requestData (hr : s.rx = some b :: t) (hop : s.op = opRequestData) :
    blockStep s = .next (checkReply copyOut .ok (s.lastByteTaken b t)) :=
  (h.blockStep_eq hr).trans (afterDecode_requestData (s := s.lastByteTaken b t) hop .ok)

theorem AwaitsLastByte.blockStep_sendAction (hr : s.rx = some b :: t) (hop : s.op = opSendAction) :
    blockStep s = .next (checkReply takeStatus .ok (s.lastByteTaken b t)) :=
  (h.blockStep_eq hr).trans (afterDecode_sendAction (s := s.lastByteTaken b t) hop .ok)

end

section
variable {s : State} {len cmd hi lo : Byte} {bs : List Byte} (h : HeldFrame s len cmd hi lo bs) {accept : State → State}
include h

theorem HeldFrame.crcOk_eq : s.crcOk = decide (pCrc s.params.crc ((len :: cmd :: bs).take len.toNat) = hi ++ lo) :=
  Machine.crcOk_eq h.fLen h.fCmd h.fCrcHi h.fCrcLo h.length h.fits h.payload

theorem HeldFrame.frameCmd_eq : s.frameCmd = cmd := by rw [State.frameCmd, h.fCmd, Val.value_known]

/-- R174, R175. -/
theorem HeldFrame.reply_malformed (hne : pCrc s.params.crc ((len :: cmd :: bs).take len.toNat) ≠ hi ++ lo) :
    checkReply accept .ok s =
      { s with draws := s.draws + 1, fvalid := false, busy := false, done := true, result := .malformed, tstate := .idle,
               dstate := .idle } :=
  checkReply_malformed (h.crcOk_eq.trans (decide_eq_false hne))

/-- R174, R175. -/
theorem HeldFrame.reply_invalidAnswer (hcrc : pCrc s.params.crc ((len :: cmd :: bs).take len.toNat) = hi ++ lo) (hcmd : cmd ≠ s.reqCmd) :
    checkReply accept .ok s =
      { s with draws := s.draws + 1, fvalid := false, busy := false, done := true, result := .invalidAnswer, tstate := .idle,
               dstate := .idle } :=
  checkReply_invalidAnswer (h.crcOk_eq.trans (decide_eq_true hcrc)) (h.frameCmd_eq.trans_ne hcmd)

/-- R175. -/
theorem HeldFrame.reply_accepted (hcrc : pCrc s.params.crc ((len :: cmd :: bs).take len.toNat) = hi ++ lo) (hcmd : cmd = s.reqCmd) :
    checkReply accept .ok s = (accept s.drawn).finish .ok :=
  checkReply_accept (h.crcOk_eq.trans (decide_eq_true hcrc)) (h.frameCmd_eq.trans hcmd)

end

/-- R173: exactly `n` elements of `OUT` are written, and the others are kept. -/
theorem readCell_copyOut {s : State} (h : s.reqLen.toNat ≤ payloadCap) (i : Nat) :
    readCell (copyOut s).out i = if i < s.reqLen.toNat then readCell s.fPay i else readCell s.out i := by
  rw [payloadCap_eq] at h
  have hlen : (takeCells s.fPay s.reqLen.toNat).length = s.reqLen.toNat := (takeCells_length _ _).trans (Nat.min_eq_left h)
  rw [copyOut, readCell_writeCells]
  by_cases hi : i < s.reqLen.toNat
  · rw [dif_pos (by omega), if_pos hi, takeCells_getElem, Nat.sub_zero]
  · rw [dif_neg (by omega), if_neg hi]

/-! ### Whole operations -/

/-- R81, R140: the length that the encoder writes makes the checksum's range the length, the command and the whole payload. -/
theorem take_lengthByte (c : Byte) {bs : List Byte} (hn : bs.length ≤ payloadCap) :
    (lengthByte bs.length :: c :: bs).take (lengthByte bs.length).toNat = lengthByte bs.length :: c :: bs := by
  rw [lengthByte_toNat hn, headerLen_eq]
  exact List.take_of_length_le (by simp only [List.length_cons]; omega)

section
variable {s t : State} {as : List (Option Byte)} (h : Progress s t as)
include h

theorem Progress.reqCmd : t.reqCmd = s.reqCmd := by rw [h.same]
theorem Progress.reqLen : t.reqLen = s.reqLen := by rw [h.same]
theorem Progress.acks : t.acks = s.acks := by rw [h.same]

end

/-- The decode of the reply begins: the request's `WRITE` and `RESERVE` were both answered `ok`, and `t` is what the transport has left of its
answers (R172). -/
def State.replyAwaited (t : List Ack) (s : State) : State :=
  beginDecode { s with acks := t, draws := s.draws + 2, trace := .reserve s.reserveCount .ok :: .write s.txFrame .ok :: s.trace }

@[simp] theorem State.replyAwaited_dstate (t : List Ack) (s : State) : (s.replyAwaited t).dstate = .seekLength := rfl

/-- R171, R172, R178. -/
theorem run_requestAccepted {s : State} {t : List Ack} (hb : s.busy = true) (hh : s.host = []) (ht : s.tstate = .writeRequest)
    (ha : s.acks = .ok :: .ok :: t) : Sys2Proof.core.run 2 s = .next (s.replyAwaited t) := by
  have hwrite := blockStep_requestWritten ht ha
  have hreserve := blockStep_reserved
    (s := { s with acks := .ok :: t, draws := s.draws + 1, trace := .write s.txFrame .ok :: s.trace, tstate := .reserve }) rfl rfl
  exact (run_succ_of_blockStep hwrite hb hh).trans (run_succ_of_blockStep (n := 0) hreserve hb hh)

/-- R183: the events of a master's operation are the `WRITE`, the `RESERVE` and the polls of the reply. -/
theorem Progress.exchange_trace {s v : State} {as : List (Option Byte)} {t : List Ack} (h : Progress (s.replyAwaited t) v as) (b : Byte) :
    ∃ polls, .poll (some b) :: v.trace = polls ++ [.reserve s.reserveCount .ok, .write s.txFrame .ok] ++ s.trace ∧
      ∀ e ∈ polls, e = .noByte ∨ ∃ a, e = .poll a := by
  obtain ⟨polls, htrace, hpolls⟩ := h.trace
  refine ⟨.poll (some b) :: polls, ?_, List.forall_mem_cons.2 ⟨.inr ⟨_, rfl⟩, hpolls⟩⟩
  rw [List.append_assoc]
  exact congrArg _ htrace

/-- R171, R175, R178: an operation whose start in `s` leads to the request `r`, answered by an intact frame with the request's command, comes to the
last byte of that frame; the step that takes it passes the checks of R175 and is the operation's last. -/
theorem run_to_lastByte {s r : State} {bs : List Byte} {answers rest : List (Option Byte)} {t : List Ack} (hstart : step s = .next r)
    (hb : r.busy = true) (hh : r.host = []) (ht : r.tstate = .writeRequest) (ha : r.acks = .ok :: .ok :: t) (hfree : r.params.PreambleFree)
    (hn : bs.length ≤ payloadCap) (hf : answers.filterMap id = wireFrame r.params r.reqCmd bs) (hc : answers.count none < r.timeout.toNat)
    (hlast : answers.getLast? ≠ some none) (hr : r.rx = answers ++ rest) :
    let crc := pCrc r.params.crc (lengthByte bs.length :: r.reqCmd :: bs)
    ∃ v as, AwaitsLastByte v (lengthByte bs.length) r.reqCmd (hiByte crc) bs ∧ v.rx = some (loByte crc) :: rest ∧
      Progress (r.replyAwaited t) v as ∧ (∀ i, bs.length ≤ i → readCell v.fPay i = .unspec) ∧
      ∀ accept, blockStep v = .next (checkReply accept .ok (v.lastByteTaken (loByte crc) rest)) →
        Sys2Proof.core.run (3 + answers.length) s = .next ((accept (v.lastByteTaken (loByte crc) rest).drawn).finish .ok) := by
  intro crc
  have hpoll : Polling (r.replyAwaited t) := ⟨hb, hh, rfl, by simp, by simp⟩
  obtain ⟨v, as, has, hprog, hk, hrx, hvd, hlen, hcmd, hhi, hpay, hkeep, -⟩ :=
    Progress.of_frame (k := 0) hpoll rfl rfl hfree hn hf hc hlast hr
  have hpollv : Polling v := hprog.polling hpoll (by simp [hvd]) (by simp [hvd])
  have hdue : bs.length = payloadDue (lengthByte bs.length) := by rw [payloadDue, lengthByte_toNat hn, Nat.add_sub_cancel_left]
  have hawait : AwaitsLastByte v (lengthByte bs.length) r.reqCmd (hiByte crc) bs :=
    ⟨hpollv.tstate, hvd, hk, hlen, hcmd, hhi, hdue, hn, hpay⟩
  refine ⟨v, as, hawait, hrx, hprog, fun i hi => (hkeep i hi).trans (readCell_replicate 26 i), fun accept hv => ?_⟩
  have hcrc : pCrc v.params.crc ((lengthByte bs.length :: r.reqCmd :: bs).take (lengthByte bs.length).toNat) = hiByte crc ++ loByte crc := by
    rw [take_lengthByte _ hn, hprog.params, hiByte_append_loByte]
    rfl
  rw [(hawait.held (loByte crc) rest).reply_accepted hcrc hprog.reqCmd.symm] at hv
  have hsteps : 3 + answers.length = 2 + (as.length + 1) + 1 := by rw [has, List.length_append, List.length_singleton]; omega
  calc Sys2Proof.core.run (3 + answers.length) s
      = Sys2Proof.core.run (2 + (as.length + 1)) r := by rw [hsteps, run_succ_of_next hstart]
    _ = Sys2Proof.core.run (as.length + 1) (r.replyAwaited t) := run_add (run_requestAccepted hb hh ht ha)
    _ = Sys2Proof.core.run 1 v := run_add hprog.run
    _ = .next ((accept (v.lastByteTaken (loByte crc) rest).drawn).finish .ok) :=
      run_succ_of_blockStep (n := 0) hv hpollv.busy hpollv.host

section
variable {s : State} {c n : Byte} (hb : s.busy = false) (hr : s.params.role = .master) (hn : n.toNat ≤ payloadCap)
include hb hr hn

/-- R22, R171: the `CTRL` write of a REQUEST_DATA builds its request. -/
theorem step_requestData (hh : s.host = [.wr 0#8 (ctrlWord opRequestData c n)]) :
    step s = .next (sendRequest [] (({ s with host := [] } : State).start opRequestData c n)) := by
  rw [step_of_ctrlWrite hh hb, decode, decodeCtrl_of_encode (p := s.params) (i := .requestData c n) rfl]
  exact congrArg Host.Outcome.next (requestDataStart_ok (s := State.start opRequestData c n _) hr hn)

/-- R22, R178: the `CTRL` write of a SEND_ACTION builds the request of the bytes in `ARG`. -/
theorem step_sendAction {args : List Byte} (hlen : args.length = n.toNat)
    (harg : ∀ i (h : i < args.length), readCell s.arg i = .known args[i]) (hh : s.host = [.wr 0#8 (ctrlWord opSendAction c n)]) :
    step s = .next (sendRequest (knownCells args) (({ s with host := [] } : State).start opSendAction c n)) := by
  have hcells : (({ s with host := [] } : State).start opSendAction c n).argCells = knownCells args := by
    rw [State.argCells, State.start_reqLen, ← hlen]
    exact takeCells_eq_knownCells s.arg args (hlen.trans_le hn) harg
  rw [step_of_ctrlWrite hh hb, decode, decodeCtrl_of_encode (p := s.params) (i := .sendAction c n) rfl, ← hcells]
  exact congrArg Host.Outcome.next (sendActionStart_ok (s := State.start opSendAction c n _) hr hn)

end

end Sys2Proof.Machine

open Sys2Proof Sys2Proof.Machine

/-- Settles O24: the request is the frame of no payload. -/
theorem requestDataBuildsRequest : Obligations.RequestDataBuildsRequest := by
  intro s c l hr hl
  have hstart := requestDataStart_ok (s := s.start opRequestData c l) hr hl
  have hframe := sendRequest_eq (payload := []) (s.start opRequestData c l) (Nat.zero_le _)
  obtain ⟨hpre, hlength, hcmd, -, hhi, hlo, hrest⟩ :=
    readCell_frame (payload := []) (s.start opRequestData c l) s.txb c rfl (Nat.zero_le _)
  exact ⟨_, congrArg Host.Outcome.next (hstart.trans hframe), hpre, hlength, hcmd, hhi, hlo, hrest⟩

/-- Settles O25: the frame is laid out from the operands that the start has latched, and `vals` is the reading of them that its checksum took. -/
theorem sendActionBuildsRequest : Obligations.SendActionBuildsRequest := by
  intro s c l hr hl
  have hfits : (s.start opSendAction c l).reqLen.toNat ≤ payloadCap := hl
  have hstart := (sendActionStart_ok (s := s.start opSendAction c l) hr hfits).trans (sendRequest_argCells hfits)
  exact ⟨_, valuesFrom s.draws 0 (s.start opSendAction c l).argCells, congrArg Host.Outcome.next hstart,
    (valuesFrom_length _ _ _).trans (State.argCells_length hfits), fun _ _ hi hb => State.valuesFrom_argCells _ hfits hi hb,
    readCell_argFrame c hfits⟩

/-- Settles O37, by the two answers to the `WRITE`. -/
theorem requestWriteStep : Obligations.RequestWriteStep := by
  intro s a t ht ha hcap
  refine ⟨s.txFrame, State.txFrame_length hcap, fun _ _ hi hb => State.txFrame_getElem? hcap hi hb, ?_, ?_⟩
  · rintro rfl
    exact blockStep_requestWritten ht ha
  · rintro rfl
    exact blockStep_requestRefused ht ha

/-- Settles O38: the announced count is that of R172 for either operation; then by the two answers to the `RESERVE`. -/
theorem reserveStep : Obligations.ReserveStep := by
  intro s a t n ht ha hn
  have hcount : s.reserveCount = n := by
    rcases hn with ⟨hop, -, hn⟩ | ⟨hop, hn⟩
    · rw [reserveCount_requestData hop, ← hn, BitVec.ofNat_toNat, BitVec.setWidth_eq]
    · rw [reserveCount_sendAction hop, ← hn, BitVec.ofNat_toNat, BitVec.setWidth_eq]
  subst hcount
  constructor
  · rintro rfl
    exact blockStep_reserved ht ha
  · rintro rfl
    exact blockStep_reserveRefused ht ha

/-- Settles O39: the checks of R175 on the frame that the last byte completes, and the copy of R173. -/
theorem requestDataReply : Obligations.RequestDataReply := by
  intro s b len cmd hi bs t ht hd hk hr hop hn hl hc hhi hlen hfits hpay
  have hlast : AwaitsLastByte s len cmd hi bs := ⟨ht, hd, hk, hl, hc, hhi, hlen, hfits, hpay⟩
  have hstep := hlast.blockStep_requestData hr hop
  have held := hlast.held b t
  refine ⟨fun hne => ?_, fun hcrc hcmd => ?_, fun hcrc hcmd => ?_⟩
  · rw [hstep, held.reply_malformed hne]
    rfl
  · rw [hstep, held.reply_invalidAnswer hcrc hcmd]
    rfl
  · have hout := readCell_copyOut (s := (s.lastByteTaken b t).drawn) hn
    rw [hstep, held.reply_accepted hcrc hcmd]
    exact ⟨_, fun i hi => (hout i).trans (if_pos hi), fun i hi => (hout i).trans (if_neg (Nat.not_lt.2 hi)), rfl⟩

/-- Settles O40: the checks of R175 on the frame that the last byte completes, and the status byte of R179. -/
theorem sendActionReply : Obligations.SendActionReply := by
  intro s b len cmd hi bs t ht hd hk hr hop hl hc hhi hlen hfits hpay
  have hlast : AwaitsLastByte s len cmd hi bs := ⟨ht, hd, hk, hl, hc, hhi, hlen, hfits, hpay⟩
  have hstep := hlast.blockStep_sendAction hr hop
  have held := hlast.held b t
  refine ⟨fun hne => ?_, fun hcrc hcmd => ?_, fun hcrc hcmd => ?_⟩
  · rw [hstep, held.reply_malformed hne]
    rfl
  · rw [hstep, held.reply_invalidAnswer hcrc hcmd]
    rfl
  · rw [hstep, held.reply_accepted hcrc hcmd]
    rfl

/-- Settles O56: the operation comes to the last byte of the reply (`run_to_lastByte`), and the copy of R173 finds UNSPEC elements past the reply's
end. -/
theorem requestDataCompletes : Obligations.RequestDataCompletes := by
  intro s c n reply answers rest acks hb hrole hfree hn hlen hh ha hf hc hlast hr
  have hstart := step_requestData hb hrole hn hh
  have htx := txFrame_sendRequest (bs := []) (({ s with host := [] } : State).start opRequestData c n) (Nat.zero_le _)
  rw [knownCells_nil] at htx
  rw [sendRequest_eq _ (Nat.zero_le _)] at hstart htx
  obtain ⟨v, as, hawait, hrx, hprog, hshort, hrun⟩ := run_to_lastByte hstart rfl rfl rfl ha hfree hlen hf hc hlast hr
  obtain ⟨polls, htrace, hpolls⟩ := hprog.exchange_trace (loByte (pCrc s.params.crc (lengthByte reply.length :: c :: reply)))
  rw [htx, reserveCount_requestData rfl] at htrace
  have hreq : v.reqLen = n := hprog.reqLen
  have hout := readCell_copyOut (s := v) (by rw [hreq]; exact hn)
  rw [hreq] at hout
  refine ⟨_, hrun _ (hawait.blockStep_requestData hrx hprog.op), rfl, rfl, rfl, rfl, hreq, fun i hi hin => ?_, fun i hi hin => ?_,
    fun i hi => ?_, hprog.appStatus, rfl, hprog.acks, polls, htrace, hpolls⟩
  · exact (hout i).trans ((if_pos hin).trans (hawait.payload i hi))
  · exact (hout i).trans ((if_pos hin).trans (hshort i hi))
  · exact (hout i).trans ((if_neg (Nat.not_lt.2 hi)).trans (by rw [hprog.out]; rfl))

/-- Settles O57: the operation comes to the last byte of the status frame (`run_to_lastByte`), whose one payload byte is `F_PAY[0]`. -/
theorem sendActionCompletes : Obligations.SendActionCompletes := by
  intro s c n st args answers rest acks hb hrole hfree hlen hn harg hh ha hf hc hlast hr
  have hargs : args.length ≤ payloadCap := hlen.trans_le hn
  have hcells : (knownCells args).length ≤ payloadCap := (knownCells_length args).trans_le hargs
  have hstart := step_sendAction hb hrole hn hlen harg hh
  have htx := txFrame_sendRequest (({ s with host := [] } : State).start opSendAction c n) hargs
  rw [sendRequest_eq _ hcells] at hstart htx
  obtain ⟨v, as, hawait, hrx, hprog, -, hrun⟩ :=
    run_to_lastByte (bs := [st]) hstart rfl rfl rfl ha hfree (by simp) hf hc hlast hr
  obtain ⟨polls, htrace, hpolls⟩ := hprog.exchange_trace (loByte (pCrc s.params.crc (lengthByte 1 :: c :: [st])))
  rw [htx, reserveCount_sendAction rfl] at htrace
  exact ⟨_, hrun _ (hawait.blockStep_sendAction hrx hprog.op), rfl, rfl, rfl, rfl, hawait.payload 0 Nat.one_pos, hprog.out, hprog.outLen, rfl,
    hprog.acks, polls, htrace, hpolls⟩

end

section
/-! PROOFS. The slave's HANDLE (R190 to R202): what the last byte of a request leads to, the dispatch by `P_CMD_TABLE`, the application's calls, the
`WRITE` of the reply, and whole operations as chains of those steps. -/

namespace Sys2Proof.Machine

/-! ### The dispatch of a command -/

/-- What a slave does with a command of the given class and the code `c` (R194, R195, R196). -/
def dispatchAs (c : Byte) (s : State) : CmdClass → State
  | .read m => dispatchRead c m s
  | .write m => dispatchWrite c m s
  | .unsupported => dispatchUnsupported c s

theorem getShutterAction_read {s : State} (h : s.params.classGetShutterAction = .read) :
    getShutterAction s = dispatchRead s.params.cmdGetShutterAction s.params.lenGetShutterAction s := by
  simp only [getShutterAction, h]

theorem getShutterAction_unsupported {s : State} (h : s.params.classGetShutterAction = .unsupported) :
    getShutterAction s = dispatchUnsupported s.params.cmdGetShutterAction s := by
  simp only [getShutterAction, h]

/-- R191, R210, R222: the command of a code does what the table's class of that code says. -/
theorem exec_decodeWire_eq_dispatchAs (s : State) (c : Byte) :
    exec (decodeWire s.params c) s = .next (dispatchAs c s (cmdTable s.params c)) := by
  unfold decodeWire cmdTable
  split_ifs with h1 h2 h3 h4 h5 h6 h7 h8 h9
  · rw [h1]; rfl
  · rw [h2]; rfl
  · rw [h3]; rfl
  · rw [h4]
    cases h : s.params.classGetShutterAction with
    | read => exact congrArg Host.Outcome.next (getShutterAction_read h)
    | unsupported => exact congrArg Host.Outcome.next (getShutterAction_unsupported h)
  · rw [h5]; rfl
  · rw [h6]; rfl
  · rw [h7]; rfl
  · rw [h8]; rfl
  · rw [h9]; rfl
  · rfl

/-- R193. -/
theorem handleFrame_malformed {s : State} (h : s.crcOk = false) :
    handleFrame .ok s = .next (s.drawn.discardFrame.finish .malformed) := by
  simp [handleFrame, h]

/-- R191, R147. -/
theorem handleFrame_intact {s : State} {c : Byte} (h : s.crcOk = true) (hc : s.fCmd = .known c) :
    handleFrame .ok s = exec (decode s.params (.wire c)) s.drawn := by
  simp [handleFrame, h, State.frameCmd, hc]

/-! ### The callbacks and the reply -/

/-- R196: the status frame of a command that the block does not serve. -/
theorem dispatchUnsupported_eq (c : Byte) (s : State) :
    dispatchUnsupported c s =
      { s with appStatus := .known s.params.statusNotSupported, tstate := .writeReply .notSupported, draws := s.draws + 1, txLen := 6#7,
               txb := writeCells s.txb 0 (s.frameCells c [.known s.params.statusNotSupported]) } :=
  sendReply_eq .notSupported c { s with appStatus := .known s.params.statusNotSupported } (by simp)

/-- R194: a getter's planned answer becomes the payload of the reply. -/
theorem blockStep_getterAnswered {s : State} {c : Byte} {m : PayloadLen} {bs rest : List Byte} (ht : s.tstate = .appGet c m)
    (ha : s.app = bs ++ rest) (hm : bs.length = m.val) :
    blockStep s =
      .next (sendReply .ok c (knownCells bs)
        { s with app := rest, draws := s.draws + 1, trace := .appGet c m.val bs :: s.trace }) := by
  have hbytes : appBytes m.val s = bs := by
    rw [appBytes_of_le (by rw [ha, ← hm]; simp), ha, ← hm, List.take_left]
  have hrest : s.app.drop m.val = rest := by rw [ha, ← hm, List.drop_left]
  rw [blockStep_appGet ht, appGetStep, portAppGet, hbytes, hrest]
  rfl

/-- R195, R197: the setter's planned answer becomes `APP_STATUS` and the payload of the reply. -/
theorem blockStep_setterAnswered {s : State} {c st : Byte} {m : PayloadLen} {rest : List Byte} (ht : s.tstate = .appSet c m)
    (ha : s.app = st :: rest) :
    blockStep s =
      .next (sendReply .ok c (knownCells [st])
        { s with app := rest, draws := s.draws + 1, appStatus := .known st,
                 trace := .appSet c (valuesFrom s.draws 0 (takeCells s.fPay m.val)) st :: s.trace }) := by
  rw [blockStep_appSet ht, appSetStep, portAppSet, appByte, ha]
  rfl

/-- R191, R200: the `WRITE` of a reply ends HANDLE, whatever it is answered. -/
theorem blockStep_replyWritten {s : State} {r : ResultCode} {a : Ack} {t : List Ack} (ht : s.tstate = .writeReply r) (ha : s.acks = a :: t) :
    blockStep s =
      .next { s with acks := t, draws := s.draws + 1, trace := .write s.txFrame a :: s.trace, busy := false, done := true, tstate := .idle,
                     dstate := .idle, result := if a = .ok then r else .txFailed } := by
  rw [blockStep_writeReply ht, writeReplyStep, portWrite_planned ha]
  cases a <;> rfl

/-- R152: what a reply leaves of the transmit buffer. -/
theorem readCell_sendReply {payload : List (Val 8)} (r : ResultCode) (c : Byte) (s : State) (hn : payload.length ≤ payloadCap) {i : Nat}
    (hi : payload.length + 5 ≤ i) : readCell (sendReply r c payload s).txb i = readCell s.txb i := by
  obtain ⟨-, -, -, -, -, -, hrest⟩ := readCell_frame s s.txb c rfl hn
  rw [sendReply_eq r c s hn]
  exact hrest i hi

/-! ### Whole operations -/

/-- A reply of known bytes that the transport accepts is HANDLE's last step. -/
theorem run_replyAccepted {s : State} {r : ResultCode} {c : Byte} {bs : List Byte} {t : List Ack} (hb : s.busy = true) (hh : s.host = [])
    (ha : s.acks = .ok :: t) (hn : bs.length ≤ payloadCap) :
    ∃ k b n, Sys2Proof.core.run 1 (sendReply r c (knownCells bs) s) =
      .next { s with acks := t, draws := k, txb := b, txLen := n, trace := .write (wireFrame s.params c bs) .ok :: s.trace, busy := false,
                     done := true, result := r, tstate := .idle, dstate := .idle } := by
  have e := sendReply_eq (payload := knownCells bs) r c s (by simpa using hn)
  have hstep := blockStep_replyWritten (s := sendReply r c (knownCells bs) s) (r := r) rfl (by rw [e]; exact ha)
  have hrun := run_succ_of_blockStep (n := 0) hstep (by rw [e]; exact hb) (by rw [e]; exact hh)
  rw [txFrame_sendReply r c s hn] at hrun
  rw [e] at hrun ⊢
  exact ⟨_, _, _, hrun⟩

/-- A HANDLE that began in `s` holds in `t` the request with command `c` and payload `req`, `rest` being what the transport has left: it has polled,
and nothing that outlives the request's decode has changed (R191). -/
structure RequestHeld (s t : State) (c : Byte) (req : List Byte) (rest : List (Option Byte)) : Prop where
  busy : t.busy = true
  host : t.host = []
  params : t.params = s.params
  fvalid : t.fvalid = true
  fCmd : t.fCmd = .known c
  payload : ∀ i (h : i < req.length), readCell t.fPay i = .known req[i]
  rx : t.rx = rest
  acks : t.acks = s.acks
  app : t.app = s.app
  appStatus : t.appStatus = s.appStatus
  out : t.out = s.out
  outLen : t.outLen = s.outLen
  trace : ∃ polls, t.trace = polls ++ s.trace ∧ ∀ e ∈ polls, e = .noByte ∨ ∃ a, e = .poll a

/-- A HANDLE has begun in `s` and awaits its request (R191). -/
def State.requestAwaited (s : State) : State := beginDecode (({ s with host := [] } : State).start opHandle 0 0)

@[simp] theorem State.requestAwaited_dstate (s : State) : s.requestAwaited.dstate = .seekLength := rfl

/-- R202: whatever HANDLE adds to the record goes on from the request's polls. -/
theorem RequestHeld.trace_append {s t : State} {c : Byte} {req : List Byte} {rest : List (Option Byte)} (h : RequestHeld s t c req rest)
    (events : List PortEvent) :
    ∃ polls, events ++ t.trace = events ++ polls ++ s.trace ∧ ∀ e ∈ polls, e = .noByte ∨ ∃ a, e = .poll a := by
  obtain ⟨polls, htrace, hpolls⟩ := h.trace
  exact ⟨polls, by rw [htrace, List.append_assoc], hpolls⟩

/-- R22, R191: the `CTRL` write of a HANDLE begins its decode. -/
theorem step_handle {s : State} (hb : s.busy = false) (hr : s.params.role = .slave) (hh : s.host = [.wr 0#8 (ctrlWord opHandle 0 0)]) :
    step s = .next s.requestAwaited := by
  rw [step_of_ctrlWrite hh hb, decode, decodeCtrl_of_encode (p := s.params) (i := .handle 0 0) rfl]
  exact congrArg Host.Outcome.next (handleStart_slave (s := State.start opHandle 0 0 _) hr)

theorem Progress.app {s t : State} {as : List (Option Byte)} (h : Progress s t as) : t.app = s.app := by rw [h.same]

section
variable {s : State} {len cmd hi : Byte} {bs : List Byte} (h : AwaitsLastByte s len cmd hi bs) {b : Byte} {t : List (Option Byte)}
include h

theorem AwaitsLastByte.blockStep_handle (hr : s.rx = some b :: t) (hop : s.op = opHandle) :
    blockStep s = handleFrame .ok (s.lastByteTaken b t) :=
  (h.blockStep_eq hr).trans (afterDecode_handle (s := s.lastByteTaken b t) hop .ok)

/-- R191: the last byte of an intact request dispatches its command. -/
theorem AwaitsLastByte.blockStep_dispatch (hr : s.rx = some b :: t) (hop : s.op = opHandle)
    (hcrc : pCrc s.params.crc ((len :: cmd :: bs).take len.toNat) = hi ++ b) :
    blockStep s = .next (dispatchAs cmd (s.lastByteTaken b t).drawn (cmdTable s.params cmd)) := by
  have hok : (s.lastByteTaken b t).crcOk = true := (h.held b t).crcOk_eq.trans (decide_eq_true hcrc)
  rw [h.blockStep_handle hr hop, handleFrame_intact hok h.fCmd]
  exact exec_decodeWire_eq_dispatchAs (s.lastByteTaken b t).drawn cmd

end

/-- R191: a request that was polled for is held once its last byte `b` is taken. -/
theorem RequestHeld.of_progress {s v : State} {as rest : List (Option Byte)} {len c hi : Byte} {req : List Byte}
    (hprog : Progress s.requestAwaited v as) (hpoll : Polling v) (h : AwaitsLastByte v len c hi req) (b : Byte) :
    RequestHeld s (v.lastByteTaken b rest).drawn c req rest where
  busy := hpoll.busy
  host := hpoll.host
  params := hprog.params
  fvalid := rfl
  fCmd := h.fCmd
  payload := h.payload
  rx := rfl
  acks := hprog.acks
  app := hprog.app
  appStatus := hprog.appStatus
  out := hprog.out
  outLen := hprog.outLen
  trace := by
    obtain ⟨polls, htrace, hpolls⟩ := hprog.trace
    exact ⟨.poll (some b) :: polls, congrArg _ htrace, List.forall_mem_cons.2 ⟨.inr ⟨_, rfl⟩, hpolls⟩⟩

/-- R191: from the `CTRL` write of a HANDLE on, an intact request is polled for, and the step that takes its last byte dispatches its command. -/
theorem run_to_dispatch {s : State} {c : Byte} {req : List Byte} {answers rest : List (Option Byte)} (hb : s.busy = false)
    (hr : s.params.role = .slave) (hfree : s.params.PreambleFree) (hn : req.length ≤ payloadCap)
    (hh : s.host = [.wr 0#8 (ctrlWord opHandle 0 0)]) (hf : answers.filterMap id = wireFrame s.params c req)
    (hc : answers.count none < s.timeout.toNat) (hlast : answers.getLast? ≠ some none) (hrx : s.rx = answers ++ rest) :
    ∃ t, RequestHeld s t c req rest ∧
      Sys2Proof.core.run (1 + answers.length) s = .next (dispatchAs c t (cmdTable s.params c)) := by
  have hpoll : Polling s.requestAwaited := ⟨rfl, rfl, rfl, by simp, by simp⟩
  obtain ⟨v, as, has, hprog, hk, hvx, hvd, hlen, hcmd, hhi, hpay, -, -⟩ :=
    Progress.of_frame (k := 0) hpoll rfl rfl hfree hn hf hc hlast hrx
  have hpollv : Polling v := hprog.polling hpoll (by simp [hvd]) (by simp [hvd])
  have hdue : req.length = payloadDue (lengthByte req.length) := by rw [payloadDue, lengthByte_toNat hn, Nat.add_sub_cancel_left]
  have hawait := AwaitsLastByte.mk hpollv.tstate hvd hk hlen hcmd hhi hdue hn hpay
  have hdispatch := hawait.blockStep_dispatch hvx hprog.op (by rw [take_lengthByte c hn, hprog.params, hiByte_append_loByte])
  rw [hprog.params] at hdispatch
  have hsteps : 1 + answers.length = as.length + 1 + 1 := by rw [has, List.length_append, List.length_singleton, Nat.add_comm]
  refine ⟨_, .of_progress hprog hpollv hawait (loByte (pCrc s.params.crc (lengthByte req.length :: c :: req))), ?_⟩
  calc Sys2Proof.core.run (1 + answers.length) s
      = Sys2Proof.core.run (as.length + 1) s.requestAwaited := by rw [hsteps, run_succ_of_next (step_handle hb hr hh)]
    _ = Sys2Proof.core.run 1 v := run_add hprog.run
    _ = _ := run_succ_of_blockStep (n := 0) hdispatch hpollv.busy hpollv.host

/-- R197: the setter's argument agrees with the payload as far as both reach. -/
theorem take_valuesFrom_takeCells {n : Nat} (a : Vector (Val 8) n) (bs : List Byte) (k m : Nat) (hn : bs.length ≤ n)
    (h : ∀ i (hi : i < bs.length), readCell a i = .known bs[i]) : (valuesFrom k 0 (takeCells a m)).take bs.length = bs.take m := by
  have hknown : a.toList.take bs.length = knownCells bs := takeCells_eq_knownCells a bs hn h
  calc (valuesFrom k 0 (takeCells a m)).take bs.length
      = valuesFrom k 0 ((a.toList.take bs.length).take m) := by
        rw [← valuesFrom_take, takeCells, List.take_take, List.take_take, Nat.min_comm]
    _ = bs.take m := by rw [hknown, valuesFrom_take, valuesFrom_knownCells]

end Sys2Proof.Machine

open Sys2Proof Sys2Proof.Machine

/-- Settles O8: the last byte completes the frame, and HANDLE goes on by whether its checksum matches. -/
theorem stepRunsWireCommand : Obligations.StepRunsWireCommand := by
  intro s s1 b c t ht hd hop hk hr hc hs1
  obtain rfl : s1 = s.lastByteTaken b t := hs1
  have hstep : blockStep s = handleFrame .ok (s.lastByteTaken b t) := by
    rw [blockStep_poll ht, decodeStep_lastByte hd hk hr]
    exact afterDecode_handle (s := s.lastByteTaken b t) hop .ok
  by_cases hcrc : (s.lastByteTaken b t).crcOk = true
  · rw [hstep, if_pos hcrc, handleFrame_intact hcrc hc]
    rfl
  · rw [hstep, if_neg hcrc, handleFrame_malformed (Bool.eq_false_of_not_eq_true hcrc)]
    rfl

/-- Settles O9: `decodeWire` and `cmdTable` go by the same codes in the same order. -/
theorem dispatchFollowsCommandTable : Obligations.DispatchFollowsCommandTable := by
  intro s c
  have hexec : exec (decode s.params (.wire c)) s = _ := exec_decodeWire_eq_dispatchAs s c
  cases h : cmdTable s.params c with
  | read | write | unsupported => rw [h] at hexec; exact hexec

/-- Settles O27: each of them is `dispatchRead` of its own code and length. -/
theorem readCommandsCallGetter : Obligations.ReadCommandsCallGetter := fun _ =>
  ⟨rfl, fun hread => congrArg Host.Outcome.next (getShutterAction_read hread), rfl, rfl, rfl⟩

/-- Settles O28: each of them is `dispatchWrite` of its own code and length. -/
theorem writeCommandsCallSetter : Obligations.WriteCommandsCallSetter := fun _ => ⟨rfl, rfl, rfl, rfl⟩

/-- Settles O29: both are dispatched to the status frame, a frame of one payload byte. -/
theorem unsupportedCommandsBuildStatusFrame : Obligations.UnsupportedCommandsBuildStatusFrame := by
  intro s i c hi
  have hexec : exec i s = .next (dispatchUnsupported c s) := by
    rcases hi with rfl | ⟨rfl, hclass, rfl⟩
    · rfl
    · exact congrArg Host.Outcome.next (getShutterAction_unsupported hclass)
  obtain ⟨hpre, hlength, hcmd, hpay, hhi, hlo, hrest⟩ :=
    readCell_frame (payload := [.known s.params.statusNotSupported]) s s.txb c rfl (by simp)
  exact ⟨_, hexec.trans (congrArg Host.Outcome.next (dispatchUnsupported_eq c s)), hpre, hlength, hcmd, hpay 0 _ rfl, hhi, hlo, hrest⟩

/-- Settles O41: the reply is the frame of the getter's bytes. -/
theorem getterAnswerIsReply : Obligations.GetterAnswerIsReply := by
  intro s cmd m bs rest ht ha hm
  have hn : bs.length ≤ payloadCap := hm.trans_le (Nat.le_of_lt_succ m.isLt)
  have hcells : (knownCells bs).length ≤ payloadCap := (knownCells_length bs).trans_le hn
  refine ⟨_, blockStep_getterAnswered ht ha hm, ?_, txFrame_sendReply .ok cmd _ hn, fun i hi => ?_⟩
  · rw [sendReply_eq _ _ _ hcells, knownCells_length, hm]
    rfl
  · exact readCell_sendReply .ok cmd _ hcells (by rw [knownCells_length, hm]; exact hi)

/-- Settles O42: the reply is the frame of the setter's result; the argument is one reading of the first `m` payload elements. -/
theorem setterResultIsReply : Obligations.SetterResultIsReply := by
  intro s cmd st m rest ht ha
  have hm : m.val ≤ 26 := Nat.le_of_lt_succ m.isLt
  have hcells : (knownCells [st]).length ≤ payloadCap := by simp
  refine ⟨_, valuesFrom s.draws 0 (takeCells s.fPay m.val), blockStep_setterAnswered ht ha, ?_, fun i b hi hb => ?_, ?_,
    txFrame_sendReply .ok cmd _ (by simp), fun i hi => readCell_sendReply .ok cmd _ hcells hi⟩
  · rw [valuesFrom_length, takeCells_length, Nat.min_eq_left hm]
  · exact valuesFrom_takeCells s.fPay s.draws 0 hi hm hb
  · rw [sendReply_eq _ _ _ hcells]
    rfl

/-- Settles O43: the `WRITE` carries one reading of the frame in the transmit buffer. -/
theorem replyWriteEndsHandle : Obligations.ReplyWriteEndsHandle := by
  intro s a t r ht ha hcap
  exact ⟨s.txFrame, State.txFrame_length hcap, fun _ _ hi hb => State.txFrame_getElem? hcap hi hb, blockStep_replyWritten ht ha⟩

/-- Settles O58: the request is dispatched to the getter (`run_to_dispatch`), whose bytes are the reply (`run_replyAccepted`). -/
theorem handleServesReadCommand : Obligations.HandleServesReadCommand := by
  intro s c m req data app answers rest acks hb hrole hfree hclass hn hm happ hh hacks hf hc hlast hr
  obtain ⟨t, ht, hrun⟩ := run_to_dispatch hb hrole hfree hn hh hf hc hlast hr
  rw [hclass] at hrun
  rw [(by omega : 3 + answers.length = 1 + answers.length + 2), ← ht.params]
  have hget := blockStep_getterAnswered (s := dispatchRead c m t) rfl (ht.app.trans happ) hm
  obtain ⟨k, b, n, hreply⟩ := run_replyAccepted (r := .ok) (c := c) (bs := data) (t := acks)
    (s := { dispatchRead c m t with app := app, draws := t.draws + 1, trace := .appGet c m.val data :: t.trace })
    ht.busy ht.host (ht.acks.trans hacks) (hm.trans_le (Nat.le_of_lt_succ m.isLt))
  have hend := (run_succ_of_blockStep (n := 1) hget ht.busy ht.host).trans hreply
  obtain ⟨polls, htrace, hpolls⟩ := ht.trace_append [.write (wireFrame t.params c data) .ok, .appGet c m.val data]
  refine ⟨_, (run_add hrun).trans hend, rfl, rfl, rfl, ht.fvalid, ht.fCmd, ht.appStatus, ht.out, ht.outLen, ht.rx, rfl, rfl,
    polls, htrace, hpolls⟩

/-- Settles O59: the request is dispatched to the setter (`run_to_dispatch`), whose result is the reply (`run_replyAccepted`). -/
theorem handleServesWriteCommand : Obligations.HandleServesWriteCommand := by
  intro s c st m req app answers rest acks hb hrole hfree hclass hn happ hh hacks hf hc hlast hr
  obtain ⟨t, ht, hrun⟩ := run_to_dispatch hb hrole hfree hn hh hf hc hlast hr
  rw [hclass] at hrun
  rw [(by omega : 3 + answers.length = 1 + answers.length + 2), ← ht.params]
  have hset := blockStep_setterAnswered (s := dispatchWrite c m t) rfl (ht.app.trans happ)
  obtain ⟨k, b, n, hreply⟩ := run_replyAccepted (r := .ok) (c := c) (bs := [st]) (t := acks)
    (s := { dispatchWrite c m t with app := app, draws := t.draws + 1, appStatus := .known st,
                                     trace := .appSet c (valuesFrom t.draws 0 (takeCells t.fPay m.val)) st :: t.trace })
    ht.busy ht.host (ht.acks.trans hacks) (by simp)
  have hend := (run_succ_of_blockStep (n := 1) hset ht.busy ht.host).trans hreply
  obtain ⟨polls, htrace, hpolls⟩ := ht.trace_append
    [.write (wireFrame t.params c [st]) .ok, .appSet c (valuesFrom t.draws 0 (takeCells t.fPay m.val)) st]
  refine ⟨_, (run_add hrun).trans hend, rfl, rfl, rfl, ht.fvalid, ht.fCmd, rfl, ht.out, ht.outLen, ht.rx, rfl, rfl, polls, _, htrace, ?_,
    take_valuesFrom_takeCells t.fPay req t.draws m.val hn ht.payload, hpolls⟩
  rw [valuesFrom_length, takeCells_length, Nat.min_eq_left (Nat.le_of_lt_succ m.isLt)]

/-- Settles O60: the request is dispatched to the status frame (`run_to_dispatch`), which is the reply (`run_replyAccepted`). -/
theorem handleAnswersUnsupportedCommand : Obligations.HandleAnswersUnsupportedCommand := by
  intro s c req answers rest acks hb hrole hfree hclass hn hh hacks hf hc hlast hr
  obtain ⟨t, ht, hrun⟩ := run_to_dispatch hb hrole hfree hn hh hf hc hlast hr
  rw [hclass] at hrun
  rw [(by omega : 2 + answers.length = 1 + answers.length + 1), ← ht.params]
  obtain ⟨k, b, n, hend⟩ := run_replyAccepted (r := .notSupported) (c := c) (bs := [t.params.statusNotSupported]) (t := acks)
    (s := { t with appStatus := .known t.params.statusNotSupported }) ht.busy ht.host (ht.acks.trans hacks) (by simp)
  obtain ⟨polls, htrace, hpolls⟩ := ht.trace_append [.write (wireFrame t.params c [t.params.statusNotSupported]) .ok]
  refine ⟨_, (run_add hrun).trans hend, rfl, rfl, rfl, ht.fvalid, ht.fCmd, rfl, ht.out, ht.outLen, ht.rx, rfl, ht.app,
    polls, htrace, hpolls⟩

end

section
/-! PROOFS. The table of the commands (R210, R222): each entry is the class of the instruction that the command's code decodes to. -/

namespace Sys2Proof

/-- R222: the catalog's class and length of a wire command. A host operation is no entry of the catalog; no command byte decodes to one. -/
def Instr.catalogClass (p : Params) : Instr → CmdClass
  | .ident => .read 7
  | .setShutterAction => .write p.lenSetShutterAction
  | .getShutterAction =>
    match p.classGetShutterAction with
    | .read => .read p.lenGetShutterAction
    | .unsupported => .unsupported
  | .setShutterPosition => .write p.lenSetShutterPosition
  | .getShutterPosition => .read p.lenGetShutterPosition
  | .setRelay => .write 1
  | .getRelay => .read p.lenGetRelay
  | .setBuzzer => .write p.lenSetBuzzer
  | .getButton => .read p.lenGetButton
  | _ => .unsupported

theorem catalogClass_getShutterAction_read {p : Params} (h : p.classGetShutterAction = .read) :
    Instr.getShutterAction.catalogClass p = .read p.lenGetShutterAction := by
  simp only [Instr.catalogClass, h]

theorem catalogClass_getShutterAction_unsupported {p : Params} (h : p.classGetShutterAction = .unsupported) :
    Instr.getShutterAction.catalogClass p = .unsupported := by
  simp only [Instr.catalogClass, h]

/-- R210: `cmdTable` and `decodeWire` compare with the same codes in the same order. -/
theorem cmdTable_eq_catalogClass (p : Params) (c : Byte) : cmdTable p c = (decodeWire p c).catalogClass p := by
  unfold cmdTable decodeWire
  split_ifs <;> rfl

/-- R210: with distinct codes the entry of an instruction's code is that instruction's class. -/
theorem cmdTable_of_encode {p : Params} {i : Instr} {c : Byte} (hp : p.Ok) (hi : wellFormed p i = true) (h : encode p i = .wire c) :
    cmdTable p c = i.catalogClass p := by
  rw [cmdTable_eq_catalogClass, decodeWire_of_encode hp hi h]

/-- R220. -/
theorem cmdTable_unassigned {p : Params} {c : Byte} (h : c ∉ p.codes) : cmdTable p c = .unsupported := by
  rw [cmdTable_eq_catalogClass, decodeWire_unassigned h]
  rfl

end Sys2Proof

open Sys2Proof

/-- Settles O5: distinct codes decode to their own commands, so each entry is its own command's class (`cmdTable_of_encode`). -/
theorem commandTableEntries : Obligations.CommandTableEntries := by
  intro p hp
  have entry (i : Instr) {c : Byte} (hi : wellFormed p i = true) (h : encode p i = .wire c) : cmdTable p c = i.catalogClass p :=
    cmdTable_of_encode hp hi h
  have getShutterAction := entry .getShutterAction rfl rfl
  exact ⟨entry .ident rfl rfl, entry .setShutterAction rfl rfl,
    fun hread => getShutterAction.trans (catalogClass_getShutterAction_read hread),
    fun hunsupported => getShutterAction.trans (catalogClass_getShutterAction_unsupported hunsupported),
    entry .setShutterPosition rfl rfl, entry .getShutterPosition rfl rfl, entry .setRelay rfl rfl, entry .getRelay rfl rfl,
    entry .setBuzzer rfl rfl, entry .getButton rfl rfl, fun _ => cmdTable_unassigned⟩

end

section
/-! PROOFS. How operations go on and how they end (R230 to R236): the block's own step always answers when the invariant holds, and it ends an
operation by `finish` alone. -/

namespace Sys2Proof.Machine

/-! ### No rule stops the block (R230, R236) -/

/-- R97: the operation that waits on a `POLL` is one that runs a decode. -/
theorem Inv.decodes {s : State} (h : Inv s) (ht : s.tstate = .poll) : Decodes s := by
  have hpos := h.position
  simp only [State.positionFits, ht] at hpos
  rcases hpos with hop | ⟨_, hop | hop⟩ | ⟨_, hop⟩
  · exact .inl hop
  · exact .inr (.inl hop)
  · exact .inr (.inr (.inl hop))
  · exact .inr (.inr (.inr hop))

theorem handleFrame_answers (c : ResultCode) (s : State) : ∃ t, handleFrame c s = .next t := by
  unfold handleFrame
  split
  · exact ⟨_, rfl⟩
  split
  · exact ⟨_, rfl⟩
  · exact (exec_frame _ _).imp fun _ => And.left

theorem afterDecode_answers {s : State} (h : Decodes s) (c : ResultCode) : ∃ t, afterDecode c s = .next t := by
  rcases h with hop | hop | hop | hop
  · exact ⟨_, afterDecode_decode hop c⟩
  · exact ⟨_, afterDecode_requestData hop c⟩
  · exact ⟨_, afterDecode_sendAction hop c⟩
  · rw [afterDecode_handle hop]
    exact handleFrame_answers c s

theorem takeByte_answers {s : State} (b : Byte) (hd : s.dstate ≠ .idle) (hop : Decodes s) : ∃ t, takeByte b s = .next t := by
  unfold takeByte
  split
  next hidle => exact absurd hidle hd
  · exact ⟨_, rfl⟩
  · exact ⟨_, rfl⟩
  · exact ⟨_, rfl⟩
  · exact ⟨_, rfl⟩
  · exact afterDecode_answers (s := (takeChecksumLo b s).decodeEnd .ok) hop .ok

theorem pollStep_answers {s : State} (hd : s.dstate ≠ .idle) (hop : Decodes s) : ∃ t, pollStep s = .next t := by
  cases ha : nextPoll s with
  | none => exact ⟨_, pollStep_none ha⟩
  | some b =>
    rw [pollStep_some ha]
    exact takeByte_answers (s := (portPoll s).2) b hd hop

theorem decodeStep_answers {s : State} (hd : s.dstate ≠ .idle) (hop : Decodes s) : ∃ t, decodeStep s = .next t := by
  by_cases ho : s.dstate = .readPayload ∧ s.idx = payloadCap
  · rw [decodeStep_overflow hd ho]
    exact afterDecode_answers (s := s.decodeEnd .overflow) hop .overflow
  by_cases hk : s.ticks = 0#32
  · rw [decodeStep_noTicks hd ho hk]
    exact afterDecode_answers (s := s.decodeEnd .timeout) hop .timeout
  · rw [decodeStep_polls ⟨hd, ho, hk⟩]
    exact pollStep_answers hd hop

/-- The two states in which the block's own step faults are out of reach: an operation in progress waits on an event (R38), and one that waits
on a `POLL` has a decode in progress (R35, R112). -/
theorem Inv.blockStep_answers {s : State} (h : Inv s) (hb : s.busy = true) : ∃ t, blockStep s = .next t := by
  cases ht : s.tstate with
  | idle => exact absurd ht (h.busy_iff.1 hb)
  | writeRequest => exact ⟨_, blockStep_writeRequest ht⟩
  | reserve => exact ⟨_, blockStep_reserve ht⟩
  | poll =>
    rw [blockStep_poll ht]
    exact decodeStep_answers (h.poll_iff.1 ht) (h.decodes ht)
  | appGet c m => exact ⟨_, blockStep_appGet ht⟩
  | appSet c m => exact ⟨_, blockStep_appSet ht⟩
  | writeReply r => exact ⟨_, blockStep_writeReply ht⟩

/-! ### The end of an operation (R231) -/

/-- The state is one that `finish` leaves (R231). -/
def Finished (t : State) : Prop := ∃ c s, t = State.finish c s

theorem Finished.flags {t : State} (h : Finished t) : t.done = true ∧ t.tstate = .idle ∧ t.dstate = .idle := by
  obtain ⟨c, s, rfl⟩ := h
  exact ⟨rfl, rfl, rfl⟩

theorem sendReply_busy (r : ResultCode) (c : Byte) (payload : List (Val 8)) (s : State) : (sendReply r c payload s).busy = s.busy := by
  obtain ⟨k, b, n, e⟩ := sendReply_frame r c payload s
  rw [e]

theorem Dispatched.busy {s t : State} (h : Dispatched s t) : t.busy = s.busy := by
  cases h with
  | read c m => rfl
  | write c m => rfl
  | unsupported c => exact sendReply_busy ..

/-- R124, R175, R191: what follows a decode keeps the operation running or is its `finish`. -/
theorem DecodeFollowed.busy_or_finished {c : ResultCode} {s t : State} (h : DecodeFollowed c s t) : t.busy = s.busy ∨ Finished t := by
  cases h with
  | ended code => exact .inr ⟨_, _, rfl⟩
  | discarded code => exact .inr ⟨_, _, rfl⟩
  | copied hc hop => exact .inr ⟨_, _, rfl⟩
  | status => exact .inr ⟨_, _, rfl⟩
  | dispatched t hc hop ht => exact .inl ht.busy

/-- R231: the block's own step writes `BUSY` only by `finish`. -/
theorem BlockMoved.busy_or_finished {s t : State} (h : BlockMoved s t) : t.busy = s.busy ∨ Finished t := by
  cases h with
  | requestWritten ht => exact .inl rfl
  | requestRefused ht => exact .inr ⟨_, _, rfl⟩
  | reserved ht => exact .inl rfl
  | reserveRefused ht => exact .inr ⟨_, _, rfl⟩
  | getterAnswered c m ht => exact .inl (sendReply_busy ..)
  | setterAnswered c m ht => exact .inl (sendReply_busy ..)
  | replyWritten r code ht => exact .inr ⟨_, _, rfl⟩
  | decodeFailed c t ht hc h => exact h.busy_or_finished
  | pollFailed ht hp ha => exact .inl rfl
  | lengthTaken b ht hp ha hd => rcases takeLength_cases b (portPoll s).2 with e | e <;> rw [e] <;> exact .inl rfl
  | commandTaken b ht hp ha hd => exact .inl rfl
  | payloadTaken b ht hp ha hd => exact .inl rfl
  | checksumHiTaken b ht hp ha hd => exact .inl rfl
  | frameTaken b t ht hp ha hd h => exact h.busy_or_finished

/-- R231, R260, R43: while an operation runs, a step leaves it running, finishes it, or is a reset; a host access does not touch it. -/
theorem Stepped.busy_or_finished_or_reset {s t : State} (h : Stepped s t) (hb : s.busy = true) :
    t.busy = true ∨ Finished t ∨ ∃ rest, s.host = .reset :: rest := by
  cases h with
  | block l t hh _ hm => exact hm.busy_or_finished.imp (·.trans hb) .inl
  | start l t w hh hfree hm => exact absurd hb (by simp [hfree])
  | store l n v hh =>
    obtain ⟨w, a, e⟩ := hostStore_frame n v { s with host := l }
    rw [e]
    exact .inl hb
  | read l n hh => exact .inl hb
  | reset l hh => exact .inr (.inr ⟨l, hh⟩)
  | idle l hfree => exact .inl hb

end Sys2Proof.Machine

open Sys2Proof Sys2Proof.Machine

/-- Settles O46, by the cases of a step: only the block's own step can fault, and from the invariant it answers. -/
theorem noStepStops : Obligations.NoStepStops := by
  intro s hi
  rcases step_cases s with ⟨l, _, hb, e⟩ | ⟨l, w, _, _, e⟩ | ⟨l, n, v, _, e⟩ | ⟨l, n, _, e⟩ | ⟨l, _, e⟩ | ⟨l, _, _, e⟩
  · rw [e]
    exact (hi.withHost l).blockStep_answers hb
  · rw [e]
    exact (exec_decodeCtrl w _).imp fun _ => And.left
  all_goals exact ⟨_, e⟩

/-- Settles O49, by cases over the ways of a step: `BUSY` falls by `finish` or by reset alone. -/
theorem operationsEndByFinish : Obligations.OperationsEndByFinish := by
  intro s t _ h hb hend
  rcases (step_stepped h).busy_or_finished_or_reset hb with hbusy | hf | hreset
  · exact absurd hbusy (by simp [hend])
  · exact .inl hf.flags
  · exact .inr hreset

end
